-- ==== Sys2Proof/Word.lean ====
section
/-! DEFINITION. The words of the machine: a byte, a 32-bit register or command word, and the names of the two byte
memories (20_memory.md R60; 00_scope.md R9). -/

namespace Sys2Proof

/-- One byte of SRC, DST or a byte-array register (20_memory.md R60: "A byte is 8 bits"). -/
abbrev Byte := BitVec 8

/-- One register access, and one command word (20_memory.md R62; 30_encoding.md R80). -/
abbrev Word := BitVec 32

/-- The two byte memories of 20_memory.md R60. The operand field `M` of format S names one of them (30_encoding.md R83). -/
inductive Space where
  | src
  | dst
  deriving DecidableEq, Repr

end Sys2Proof
end

