-- ==== Sys2Proof/Config.lean ====
section
/-! DEFINITION. What an implementation fixes: the OPEN parameters `SRC_SIZE`, `DST_SIZE` and `RND` (00_scope.md R7,
92_eei_decisions.md), and the one free value of the model, a byte of SRC or DST that nothing has written since the last
hardware reset (10_state.md R47, 93_implementation_defined.md U4). -/

namespace Sys2Proof

/-- The rounding parameter `RND` of 41_embedder.md R135. -/
inductive Rnd where
  | halfUp
  | halfEven
  | truncate
  deriving DecidableEq, Repr

/-- The parameters of one IBBE instance (00_scope.md R7). They are arguments of the model: State carries them and no step
changes them, so a statement about every state holds for every instance. -/
structure Config where
  /-- `SRC_SIZE`, bytes of source image memory installed, at most 2^32. -/
  srcSize : Nat
  /-- `DST_SIZE`, bytes of destination image memory installed, at most 2^32. -/
  dstSize : Nat
  /-- `RND`. -/
  rnd : Rnd
  /-- MODEL'S OWN: which instance this is, so that in a product of instances (20_memory.md R77) the unspecified bytes of two
  with different numbers need not be equal (log entry 2). Nothing else reads it. -/
  unit : Nat
  deriving DecidableEq, Repr

/-- The instance that `State.reset` stands for: `RND = half_up` is the spec's (R7, D8); the two sizes are OPEN there, and
the largest is taken (DESIGN CHOICE, log entry 3). Its number is 0 (DESIGN CHOICE, log entry 2). -/
def Config.installed : Config := { srcSize := 4294967296, dstSize := 4294967296, rnd := .halfUp, unit := 0 }

/-- "The installed sizes are natural numbers at most 2^32" (R7). -/
abbrev Config.wf (c : Config) : Prop := c.srcSize ≤ 4294967296 ∧ c.dstSize ≤ 4294967296

/-- FREE VALUE (log entry 2): the byte, in instance number `unit`, at an address of a memory that nothing has written since
hardware reset number `resets`. U4 gives it the treatment "any value": it has no body, so nothing can be proved about which
byte it is. DESIGN CHOICE: the spec does not say whether the unspecified bytes of two instances (20_memory.md R77), or those
before and after a reset, may differ; here they may, since the byte depends on `unit` and `resets`, and two instances that a
claim gives the same number share them. -/
opaque Config.unwrittenByte (unit resets : Nat) (space : Space) (address : Nat) : Byte

end Sys2Proof
end

