-- ==== Sys2Proof/Syntax.lean ====
section
/-! DEFINITION. The command set: one constructor per row of opcode_table.json (30_encoding.md R84). -/

namespace Sys2Proof

/-- A legal command. `LUMA` and `DETECT` (format S) carry their one operand field `M`: `src` for 0, `dst` for 1 (R83). -/
inductive Instr where
  | nop
  | build
  | embed
  | luma (m : Space)
  | thresh
  | classify
  | parse
  | score
  | detect (m : Space)
  | srst
  deriving DecidableEq, Repr

end Sys2Proof
end

