-- ==== Sys2Proof/WellFormed.lean ====
section
/-! DEFINITION. Well-formedness: of a command, and of a host program. The syntax of a host program, the eight host
operations of 20_memory.md R61, stands here because Syntax.lean holds the command set alone. -/

namespace Sys2Proof

/-- A command is well formed whatever its operand: `M` is one bit and both its values are assigned (30_encoding.md R83). -/
def Instr.wf : Instr → Bool
  | .nop => true
  | .build => true
  | .embed => true
  | .luma _ => true
  | .thresh => true
  | .classify => true
  | .parse => true
  | .score => true
  | .detect _ => true
  | .srst => true

/-- "These eight are all the host can do to an IBBE instance" (20_memory.md R61). -/
inductive HostOp where
  | regRead (off : Nat)
  | regWrite (off : Nat) (v : Word)
  | srcRead (a : Nat)
  | srcWrite (a : Nat) (b : Byte)
  | dstRead (a : Nat)
  | dstWrite (a : Nat) (b : Byte)
  | reset
  | irqSample
  deriving DecidableEq, Repr

/-- A REG offset that is aligned (20_memory.md R62), inside 0x000 to 0x7FF, and none of those that R63 lists as holding
no register. -/
def regOffsetWf (off : Nat) : Bool :=
  off % 4 == 0 && decide (off < 0x800) && !(off == 0x02C) && !(decide (0x050 ≤ off) && decide (off ≤ 0x05C)) &&
    !(off == 0x0B8) && !(off == 0x0BC) && !(decide (0x0E0 ≤ off) && decide (off ≤ 0x3FC))

/-- A host operation that 20_memory.md R63 and R64 give a meaning on an instance with parameters `c`. -/
def HostOp.wf (c : Config) : HostOp → Bool
  | .regRead off => regOffsetWf off
  | .regWrite off _ => regOffsetWf off
  | .srcRead a => decide (a < c.srcSize)
  | .srcWrite a _ => decide (a < c.srcSize)
  | .dstRead a => decide (a < c.dstSize)
  | .dstWrite a _ => decide (a < c.dstSize)
  | .reset => true
  | .irqSample => true

/-- "A model refuses a program that contains one" (R63): a well-formed program contains none. -/
def programWf (c : Config) (p : List HostOp) : Bool := p.all (HostOp.wf c)

end Sys2Proof
end

