-- ==== Sys2Proof/Decode.lean ====
section
/-! DEFINITION. The decoder of a command word, total on all 2^32 words, and the encoder (30_encoding.md R80 to R87). -/

namespace Sys2Proof

/-- Why a word is no legal command (30_encoding.md R86). -/
inductive Illegal where
  /-- "illegal opcode": `OP` in 0x09 to 0xFE. -/
  | opcode
  /-- "reserved field not zero": `OP` assigned, `RSV` not 0. -/
  | reserved
  deriving DecidableEq, Repr

/-- The field `OP`, bits 31:24 (R82). -/
def opField (w : Word) : BitVec 8 := w.extractLsb' 24 8

/-- The field `RSV` of format Z, bits 23:0 (R81). -/
def rsvZ (w : Word) : BitVec 24 := w.extractLsb' 0 24

/-- The field `RSV` of format S, bits 23:1 (R81). -/
def rsvS (w : Word) : BitVec 23 := w.extractLsb' 1 23

/-- The field `M` of format S, bit 0: 0 is SRC, 1 is DST (R83). -/
def mField (w : Word) : Space := if w.getLsbD 0 then .dst else .src

/-- A word of format Z is legal when `RSV` is 0 (R85 step 3). -/
def decodeZ (w : Word) (i : Instr) : Except Illegal Instr :=
  if rsvZ w = 0#24 then .ok i else .error .reserved

/-- A word of format S is legal when `RSV` is 0, and then carries `M` (R85 step 3, R83). -/
def decodeS (w : Word) (i : Space → Instr) : Except Illegal Instr :=
  if rsvS w = 0#23 then .ok (i (mField w)) else .error .reserved

/-- R85 steps 2 and 3: the opcode first, then the reserved field, by the map of R84. -/
def decode (w : Word) : Except Illegal Instr :=
  match opField w with
  | 0x00#8 => decodeZ w .nop
  | 0x01#8 => decodeZ w .build
  | 0x02#8 => decodeZ w .embed
  | 0x03#8 => decodeS w .luma
  | 0x04#8 => decodeZ w .thresh
  | 0x05#8 => decodeZ w .classify
  | 0x06#8 => decodeZ w .parse
  | 0x07#8 => decodeZ w .score
  | 0x08#8 => decodeS w .detect
  | 0xFF#8 => decodeZ w .srst
  | _ => .error .opcode

/-- The decoder on an instruction of opcode_table.json's numbering: the command is one 32-bit value written whole to
`CMD`, so it has no byte order (20_memory.md R65), and bits above `nbits` are 0. -/
def decodeTableWord (nbits w : Nat) : Option Instr :=
  match decode (BitVec.ofNat 32 (w % 2 ^ nbits)) with
  | .ok i => some i
  | .error _ => none

/-- The opcode of a command (the `OP` column of R84). -/
def opcode : Instr → BitVec 8
  | .nop => 0x00#8
  | .build => 0x01#8
  | .embed => 0x02#8
  | .luma _ => 0x03#8
  | .thresh => 0x04#8
  | .classify => 0x05#8
  | .parse => 0x06#8
  | .score => 0x07#8
  | .detect _ => 0x08#8
  | .srst => 0xFF#8

/-- The bit that stands for a memory in the field `M` (R83). -/
def mBit : Space → BitVec 1
  | .src => 0#1
  | .dst => 1#1

/-- The low 24 bits of a command's word: 0 in format Z, `RSV` = 0 and `M` in format S (R81). -/
def lowField : Instr → BitVec 24
  | .nop => 0#24
  | .build => 0#24
  | .embed => 0#24
  | .luma m => 0#23 ++ mBit m
  | .thresh => 0#24
  | .classify => 0#24
  | .parse => 0#24
  | .score => 0#24
  | .detect m => 0#23 ++ mBit m
  | .srst => 0#24

/-- The command word of a command, `{OP, low 24 bits}` (R81, R84). -/
def encode (i : Instr) : Word := opcode i ++ lowField i

end Sys2Proof
end

