-- ==== Sys2Proof/Machine/State.lean ====
section
/-! DEFINITION. The state of one IBBE instance as plain data (10_state.md R22), its reset values (R47), and the reasons a
step can stop. -/

namespace Sys2Proof.Machine

/-- A byte memory: the bytes written since the last hardware reset as (address, byte) pairs, addresses strictly rising.
An address that is not listed holds no value of its own; a read of one gives a free value (log entries 1 and 2). -/
abbrev Memory := List Host.Cell

/-- The canonical form of a memory: addresses strictly rise, so equal memories are equal lists. A listed entry is a byte
and an unlisted address holds none, so no entry can equal what an unlisted address holds. -/
abbrev Memory.wf (m : Memory) : Prop := m.Pairwise (fun c d => c.1 < d.1)

/-- The register file REG: every register of 10_state.md R24 but `CMD`, which is not stored (R21). Only defined bits are
state; every other bit of a register word reads 0 (R23). -/
structure Regs where
  /-- `STATUS.DONE` (R26). -/
  done : Bool
  /-- `STATUS.ERR` (R26). -/
  err : Bool
  /-- `IE.DONE_IE` (R27). -/
  doneIE : Bool
  /-- `IE.ERR_IE` (R27). -/
  errIE : Bool
  /-- `ERRCODE` (R28). -/
  errCode : BitVec 4
  /-- `ERRCMD` (R29). -/
  errCmd : Word
  /-- `IMG_H` (R30). -/
  imgH : BitVec 16
  /-- `IMG_W` (R30). -/
  imgW : BitVec 16
  /-- `IMG_C` (R31). -/
  imgC : BitVec 8
  /-- `STRENGTH`, U8.8 (R32). -/
  strength : BitVec 16
  /-- `DEV_LEN` (R33). -/
  devLen : BitVec 16
  /-- `SES_LEN` (R33). -/
  sesLen : BitVec 16
  /-- `DEV_IN[0..15]` (R34). -/
  devIn : Vector Byte 16
  /-- `SES_IN[0..15]` (R34). -/
  sesIn : Vector Byte 16
  /-- `PAYLOAD[0..31]` (R35). -/
  payload : Vector Byte 32
  /-- `RPAYLOAD[0..31]` (R36). -/
  rpayload : Vector Byte 32
  /-- `NBLK` (R37). -/
  nblk : BitVec 9
  /-- `THR2` (R38). -/
  thr2 : BitVec 15
  /-- `CONF` (R39). -/
  conf : BitVec 9
  /-- `FOUND` (R40). -/
  found : Bool
  /-- `RDEV_LEN` (R41). -/
  rdevLen : BitVec 5
  /-- `RSES_LEN` (R41). -/
  rsesLen : BitVec 5
  /-- `RDEV[0..15]` (R42). -/
  rdev : Vector Byte 16
  /-- `RSES[0..15]` (R42). -/
  rses : Vector Byte 16
  /-- `SUM[0..255]` (R43). -/
  sum : Vector (BitVec 14) 256
  deriving DecidableEq, Repr

/-- What a host read returns (20_memory.md R61). -/
inductive Reply where
  /-- From `RegRead`. -/
  | word (v : Word)
  /-- From `SrcRead` and `DstRead`. -/
  | byte (b : Byte)
  /-- From `IrqSample`. -/
  | level (l : Bool)
  deriving DecidableEq, Repr

/-- The whole state: the tuple of 10_state.md R22 (`regs`, `src`, `dst`), the parameters of the instance (`cfg`), and what
the model itself needs to be one step function (`resets`, `pending`, `replies`, and in `cfg` the number of the instance; log
entries 2, 5 and 6). -/
structure State where
  /-- The registers. -/
  regs : Regs
  /-- `SRC`, the source image memory (R45). -/
  src : Memory
  /-- `DST`, the destination image memory (R45). -/
  dst : Memory
  /-- `SRC_SIZE`, `DST_SIZE`, `RND` (R22: "a parameter of the model"), and the model's own number of the instance. -/
  cfg : Config
  /-- MODEL'S OWN: how many hardware resets there have been; it selects the free bytes of unwritten memory. -/
  resets : Nat
  /-- MODEL'S OWN: the host operations still to be issued, oldest first (R21). -/
  pending : List HostOp
  /-- MODEL'S OWN: what the host's reads returned, newest first (20_memory.md R61). -/
  replies : List Reply
  deriving DecidableEq, Repr

/-- No step of the IBBE ends in a fault: its five errors are recorded in registers and the machine goes on (60_exceptions.md
R204), and 93_implementation_defined.md gives no behaviour the treatment "stuck". Nobody raises one. -/
inductive Fault where
  deriving DecidableEq, Repr

/-- The host accesses that the spec gives no meaning ("refuse", 93_implementation_defined.md U5). -/
inductive Refusal where
  /-- Only for a command without a meaning in this model; none is left. Safe. -/
  | notModelled (mnemonic : String)
  /-- Raised by `RegRead` and `RegWrite` at a misaligned offset or one that holds no register (20_memory.md R63). Safe. -/
  | noRegister (off : Nat)
  /-- Raised by `SrcRead` and `SrcWrite` at or above `SRC_SIZE` (20_memory.md R64). Safe. -/
  | srcOutOfRange (a : Nat)
  /-- Raised by `DstRead` and `DstWrite` at or above `DST_SIZE` (20_memory.md R64). Safe. -/
  | dstOutOfRange (a : Nat)
  deriving DecidableEq, Repr

/-- What a step, a host operation and a command answer. -/
abbrev Outcome := Host.Outcome State Fault Refusal

/-- The register values after reset and after `SRST` (10_state.md R47): `STRENGTH = 0x0100`, `IMG_C = 1`, all others 0. -/
def Regs.reset : Regs where
  done := false
  err := false
  doneIE := false
  errIE := false
  errCode := 0#4
  errCmd := 0#32
  imgH := 0#16
  imgW := 0#16
  imgC := 1#8
  strength := 0x0100#16
  devLen := 0#16
  sesLen := 0#16
  devIn := Vector.replicate 16 0#8
  sesIn := Vector.replicate 16 0#8
  payload := Vector.replicate 32 0#8
  rpayload := Vector.replicate 32 0#8
  nblk := 0#9
  thr2 := 0#15
  conf := 0#9
  found := false
  rdevLen := 0#5
  rsesLen := 0#5
  rdev := Vector.replicate 16 0#8
  rses := Vector.replicate 16 0#8
  sum := Vector.replicate 256 0#14

/-- An instance with parameters `c` right after hardware reset, with nothing asked of it yet. -/
def State.resetWith (c : Config) : State where
  regs := Regs.reset
  src := []
  dst := []
  cfg := c
  resets := 0
  pending := []
  replies := []

/-- The machine right after reset (70_reset_and_hazards.md R230, R231), on the instance of log entry 3. -/
def State.reset : State := State.resetWith Config.installed

end Sys2Proof.Machine
end

