-- ==== Sys2Proof/Machine/Ops.lean ====
section
/-! DEFINITION. The named operations over memory and registers: reading and writing the two byte memories, taking an error
(60_exceptions.md R204) and its acknowledgement (R207), the write of each command's result
registers (10_state.md R48), and the shape that the commands share (30_encoding.md R85). -/

namespace Sys2Proof.Machine

/-! ### Byte memories -/

/-- What a memory lists at an address. -/
def Memory.get? : Memory → Nat → Option Byte
  | [], _ => none
  | (k, b) :: rest, a => if k = a then some b else Memory.get? rest a

/-- One byte written; the canonical form is kept. -/
def Memory.put : Memory → Nat → Byte → Memory
  | [], a, b => [(a, b)]
  | (k, c) :: rest, a, b =>
    if a < k then (a, b) :: (k, c) :: rest
    else if a = k then (a, b) :: rest
    else (k, c) :: Memory.put rest a b

/-- Bytes at consecutive addresses from `a` on. -/
def cellsFrom : Nat → List Byte → Memory
  | _, [] => []
  | a, b :: rest => (a, b) :: cellsFrom (a + 1) rest

/-- The bytes `bs` written at `a`, `a + 1`, …: what writing them one at a time in that order leaves. -/
def Memory.storeRun (m : Memory) (a : Nat) (bs : List Byte) : Memory :=
  m.filter (fun c => decide (c.1 < a)) ++ cellsFrom a bs ++ m.filter (fun c => decide (a + bs.length ≤ c.1))

/-- The memory of a space (20_memory.md R60). -/
def State.mem (s : State) : Space → Memory
  | .src => s.src
  | .dst => s.dst

/-- `MemRead(S, a, 1)` (00_scope.md R10). A byte that nothing has written since the last hardware reset is a free value
(10_state.md R47, 93_implementation_defined.md U4; log entry 2). -/
def State.readByte (s : State) (space : Space) (a : Nat) : Byte :=
  match (s.mem space).get? a with
  | some b => b
  | none => Config.unwrittenByte s.cfg.unit s.resets space a

/-- `MemWrite(SRC, a, 1, b)`. -/
def State.writeSrc (s : State) (a : Nat) (b : Byte) : State := { s with src := s.src.put a b }

/-- `MemWrite(DST, a, 1, b)`. -/
def State.writeDst (s : State) (a : Nat) (b : Byte) : State := { s with dst := s.dst.put a b }

/-- `MemWrite(DST, i, 1, bs[i])` for every `i` from 0 on, the store of `EMBED` (41_embedder.md R137). -/
def State.storeDst (s : State) (bs : List Byte) : State := { s with dst := s.dst.storeRun 0 bs }

/-! ### Registers -/

/-- The register file replaced. -/
def State.withRegs (s : State) (r : Regs) : State := { s with regs := r }

/-- `STATUS.DONE <- 1`, the end of every command but `SRST` (60_exceptions.md R203). -/
def Regs.complete (r : Regs) : Regs := { r with done := true }

/-- The write of `BUILD` (10_state.md R48). -/
def Regs.withPayload (r : Regs) (p : Vector Byte 32) : Regs := { r with payload := p }

/-- The write of `LUMA` (10_state.md R48). -/
def Regs.withSums (r : Regs) (n : BitVec 9) (x : Vector (BitVec 14) 256) : Regs := { r with nblk := n, sum := x }

/-- The write of `THRESH` (10_state.md R48). -/
def Regs.withThr2 (r : Regs) (t : BitVec 15) : Regs := { r with thr2 := t }

/-- The write of `CLASSIFY` (10_state.md R48). -/
def Regs.withRpayload (r : Regs) (p : Vector Byte 32) : Regs := { r with rpayload := p }

/-- The write of `PARSE` (10_state.md R48). -/
def Regs.withParsed (r : Regs) (d : Vector Byte 16) (dn : BitVec 5) (e : Vector Byte 16) (en : BitVec 5) : Regs :=
  { r with rdev := d, rdevLen := dn, rses := e, rsesLen := en }

/-- The write of `SCORE` (10_state.md R48). -/
def Regs.withScore (r : Regs) (c : BitVec 9) (f : Bool) : Regs := { r with conf := c, found := f }

/-! ### Errors -/

/-- The five errors (60_exceptions.md R201). -/
inductive Err where
  | illCmd
  | rsvd
  | chan
  | size
  | param
  deriving DecidableEq, Repr

/-- The code an error writes to `ERRCODE` (60_exceptions.md R201). -/
def errCodeOf : Err → BitVec 4
  | .illCmd => 1#4
  | .rsvd => 2#4
  | .chan => 3#4
  | .size => 4#4
  | .param => 5#4

/-- The error of a word that is no legal command (30_encoding.md R86). -/
def errOfIllegal : Illegal → Err
  | .opcode => .illCmd
  | .reserved => .rsvd

/-- The registers after `raise E(w)`: "exactly this and nothing else" (60_exceptions.md R204). -/
def Regs.raise (r : Regs) (e : Err) (w : Word) : Regs := { r with errCode := errCodeOf e, errCmd := w, err := true }

/-- TAKING AN ERROR, the one shared operation: error entry for the command word `w` (60_exceptions.md R204). -/
def raise (e : Err) (w : Word) (s : State) : State := s.withRegs (s.regs.raise e w)

/-- RETURN FROM AN ERROR: there is no command for it; the host writes `v` to `STATUS`, which clears `DONE` where `v[1]` is 1
and `ERR` where `v[2]` is 1 and restores nothing (10_state.md R26, 60_exceptions.md R207). -/
def Regs.ack (r : Regs) (v : Word) : Regs :=
  { r with done := r.done && !v.getLsbD 1, err := r.err && !v.getLsbD 2 }

/-- The state with `STATUS.DONE` set (60_exceptions.md R203). -/
def State.finish (s : State) : State := s.withRegs s.regs.complete

/-- THE SHAPE OF EVERY COMMAND BUT `SRST` (30_encoding.md R85 steps 1 and 4 to 6): dropped with no change at all while `ERR`
is 1 (60_exceptions.md R206); else the first of its own checks that fails, `check`, raises its error for the command word
`w`; else the whole effect and then `DONE`. -/
def command (s : State) (w : Word) (check : Option Err) (effect : State → State) : Outcome :=
  if s.regs.err then .next s
  else
    match check with
    | some e => .next (raise e w s)
    | none => .next (effect s).finish

/-- A word that is no legal command: dropped while `ERR` is 1, else its error is raised (30_encoding.md R85 steps 1 to 3). -/
def rejectWord (s : State) (w : Word) (e : Illegal) : Outcome :=
  if s.regs.err then .next s else .next (raise (errOfIllegal e) w s)

end Sys2Proof.Machine
end

