-- ==== Sys2Proof/Machine/Flags.lean ====
section
/-! DEFINITION. The single-bit state as words and the interrupt output (10_state.md R26, R27, R44; 60_exceptions.md R212). -/

namespace Sys2Proof.Machine

/-- One bit as a number of one bit. -/
def bit1 (b : Bool) : BitVec 1 := BitVec.ofBool b

/-- `STATUS` as read: `ERR` in bit 2, `DONE` in bit 1, `BUSY` in bit 0; `BUSY` is 0 at every host read (10_state.md R26). -/
def Regs.statusWord (r : Regs) : Word := 0#29 ++ bit1 r.err ++ bit1 r.done ++ 0#1

/-- `IE` as read: `ERR_IE` in bit 2, `DONE_IE` in bit 1 (10_state.md R27). -/
def Regs.ieWord (r : Regs) : Word := 0#29 ++ bit1 r.errIE ++ bit1 r.doneIE ++ 0#1

/-- `IE` written with `v`: bits 1 and 2 are stored, the others ignored (10_state.md R27). -/
def Regs.writeIE (r : Regs) (v : Word) : Regs := { r with doneIE := v.getLsbD 1, errIE := v.getLsbD 2 }

/-- The interrupt output (60_exceptions.md R212). -/
def Regs.irq (r : Regs) : Bool := (r.done && r.doneIE) || (r.err && r.errIE)

end Sys2Proof.Machine
end

