-- ==== Sys2Proof/Machine/Operands.lean ====
section
/-! DEFINITION. Operand forms: the register map and the layout of byte arrays in register words (10_state.md R23 to R25), and
the image operands of the image commands, the one operand field `M` among them (20_memory.md R66 to R68, 30_encoding.md R83,
41_embedder.md R130, R131). -/

namespace Sys2Proof.Machine

/-! ### The register space -/

/-- The registers of 10_state.md R24; a byte array is its words, `SUM` its 256 words. -/
inductive Reg where
  | cmd
  | status
  | ie
  | errCode
  | errCmd
  | imgH
  | imgW
  | imgC
  | strength
  | devLen
  | sesLen
  | devIn (j : Fin 4)
  | sesIn (j : Fin 4)
  | payload (j : Fin 8)
  | rpayload (j : Fin 8)
  | nblk
  | thr2
  | conf
  | found
  | rdevLen
  | rsesLen
  | rdev (j : Fin 4)
  | rses (j : Fin 4)
  | sum (k : Fin 256)
  deriving DecidableEq, Repr

/-- The offset of a register (the first column of 10_state.md R24). -/
def regOffset : Reg → Nat
  | .cmd => 0x000
  | .status => 0x004
  | .ie => 0x008
  | .errCode => 0x00C
  | .errCmd => 0x010
  | .imgH => 0x014
  | .imgW => 0x018
  | .imgC => 0x01C
  | .strength => 0x020
  | .devLen => 0x024
  | .sesLen => 0x028
  | .devIn j => 0x030 + 4 * j.val
  | .sesIn j => 0x040 + 4 * j.val
  | .payload j => 0x060 + 4 * j.val
  | .rpayload j => 0x080 + 4 * j.val
  | .nblk => 0x0A0
  | .thr2 => 0x0A4
  | .conf => 0x0A8
  | .found => 0x0AC
  | .rdevLen => 0x0B0
  | .rsesLen => 0x0B4
  | .rdev j => 0x0C0 + 4 * j.val
  | .rses j => 0x0D0 + 4 * j.val
  | .sum k => 0x400 + 4 * k.val

/-- The element at `off` of an array of `n` words at `base`, if it lies there. -/
def arrayAt (base n off : Nat) (mk : Fin n → Reg) : Option Reg :=
  if h : base ≤ off ∧ (off - base) / 4 < n then some (mk ⟨(off - base) / 4, h.2⟩) else none

/-- The register at a word offset (`off` a multiple of 4), by the rows of 10_state.md R24. -/
def regRow (off : Nat) : Option Reg :=
  if off < 0x02C then
    match off / 4 with
    | 0 => some .cmd
    | 1 => some .status
    | 2 => some .ie
    | 3 => some .errCode
    | 4 => some .errCmd
    | 5 => some .imgH
    | 6 => some .imgW
    | 7 => some .imgC
    | 8 => some .strength
    | 9 => some .devLen
    | 10 => some .sesLen
    | _ => none
  else if off < 0x040 then arrayAt 0x030 4 off .devIn
  else if off < 0x060 then arrayAt 0x040 4 off .sesIn
  else if off < 0x080 then arrayAt 0x060 8 off .payload
  else if off < 0x0A0 then arrayAt 0x080 8 off .rpayload
  else if off < 0x0B8 then
    match (off - 0x0A0) / 4 with
    | 0 => some .nblk
    | 1 => some .thr2
    | 2 => some .conf
    | 3 => some .found
    | 4 => some .rdevLen
    | 5 => some .rsesLen
    | _ => none
  else if off < 0x0D0 then arrayAt 0x0C0 4 off .rdev
  else if off < 0x0E0 then arrayAt 0x0D0 4 off .rses
  else arrayAt 0x400 256 off .sum

/-- The register that a host access at `off` reaches: none where the access is misaligned or the offset holds no register
(20_memory.md R62, R63). -/
def regAt (off : Nat) : Option Reg := if off % 4 = 0 then regRow off else none

/-- Byte `i` of a word, byte 0 in bits 7:0 (10_state.md R25). -/
def byteOf (w : Word) (i : Nat) : Byte := w.extractLsb' (8 * i) 8

/-- Word `j` of a byte array: byte `4*j` in bits 7:0, `4*j+3` in bits 31:24 (10_state.md R25). -/
def wordAt {n : Nat} (v : Vector Byte n) (j : Nat) : Word :=
  v[4 * j + 3]?.getD 0#8 ++ v[4 * j + 2]?.getD 0#8 ++ v[4 * j + 1]?.getD 0#8 ++ v[4 * j]?.getD 0#8

/-- Word `j` of a byte array written with `w`: "Writing that word writes those four bytes" (10_state.md R25). -/
@[irreducible] def putWord {n : Nat} (v : Vector Byte n) (j : Nat) (w : Word) : Vector Byte n :=
  Vector.ofFn fun i => if i.val / 4 = j then byteOf w (i.val % 4) else v[i]

/-- The 32-bit value of a register as the host reads it: defined bits, zero elsewhere; `CMD` reads 0 (10_state.md R23). -/
def Regs.read (r : Regs) : Reg → Word
  | .cmd => 0#32
  | .status => r.statusWord
  | .ie => r.ieWord
  | .errCode => r.errCode.setWidth 32
  | .errCmd => r.errCmd
  | .imgH => r.imgH.setWidth 32
  | .imgW => r.imgW.setWidth 32
  | .imgC => r.imgC.setWidth 32
  | .strength => r.strength.setWidth 32
  | .devLen => r.devLen.setWidth 32
  | .sesLen => r.sesLen.setWidth 32
  | .devIn j => wordAt r.devIn j.val
  | .sesIn j => wordAt r.sesIn j.val
  | .payload j => wordAt r.payload j.val
  | .rpayload j => wordAt r.rpayload j.val
  | .nblk => r.nblk.setWidth 32
  | .thr2 => r.thr2.setWidth 32
  | .conf => r.conf.setWidth 32
  | .found => (bit1 r.found).setWidth 32
  | .rdevLen => r.rdevLen.setWidth 32
  | .rsesLen => r.rsesLen.setWidth 32
  | .rdev j => wordAt r.rdev j.val
  | .rses j => wordAt r.rses j.val
  | .sum k => r.sum[k].setWidth 32

/-- A host write of `v` to a register other than `CMD`: write-1-to-clear for `STATUS`, the defined bits of `v` for an RW
register, nothing for an RO register (20_memory.md R61). `CMD`, whose write executes a command, is not stored. -/
def Regs.write (r : Regs) (v : Word) : Reg → Regs
  | .cmd => r
  | .status => r.ack v
  | .ie => r.writeIE v
  | .errCode => r
  | .errCmd => r
  | .imgH => { r with imgH := v.setWidth 16 }
  | .imgW => { r with imgW := v.setWidth 16 }
  | .imgC => { r with imgC := v.setWidth 8 }
  | .strength => { r with strength := v.setWidth 16 }
  | .devLen => { r with devLen := v.setWidth 16 }
  | .sesLen => { r with sesLen := v.setWidth 16 }
  | .devIn j => { r with devIn := putWord r.devIn j.val v }
  | .sesIn j => { r with sesIn := putWord r.sesIn j.val v }
  | .payload j => { r with payload := putWord r.payload j.val v }
  | .rpayload j => { r with rpayload := putWord r.rpayload j.val v }
  | .nblk => r
  | .thr2 => r
  | .conf => r
  | .found => r
  | .rdevLen => r
  | .rsesLen => r
  | .rdev _ => r
  | .rses _ => r
  | .sum _ => r

/-! ### Images and grids -/

/-- A grid (41_embedder.md R130): height, width, and the sample of row `r`, column `c`. -/
structure Grid where
  h : Nat
  w : Nat
  px : Nat → Nat → Byte

/-- `H` of the current image (10_state.md R30). -/
def State.height (s : State) : Nat := s.regs.imgH.toNat

/-- `W` of the current image (10_state.md R30). -/
def State.width (s : State) : Nat := s.regs.imgW.toNat

/-- `C` of the current image (10_state.md R31). -/
def State.channels (s : State) : Nat := s.regs.imgC.toNat

/-- An image (41_embedder.md R130): height, width, channels (1 or 3), and the sample of row `r`, column `c`, channel `ch`. -/
structure Image where
  h : Nat
  w : Nat
  channels : Nat
  px : Nat → Nat → Nat → Byte

/-- The sample of row `r`, column `c`, channel `ch` of the image in SRC (20_memory.md R66). -/
def State.srcSample (s : State) (r c ch : Nat) : Byte := s.readByte .src ((r * s.width + c) * s.channels + ch)

/-- The sample of row `r`, column `c` of the grid in DST (20_memory.md R67). -/
def State.dstSample (s : State) (r c : Nat) : Byte := s.readByte .dst (r * s.width + c)

/-- The unweighted average of three channels, its fraction dropped; the sum is formed without wrap-around
(41_embedder.md R131). -/
def average3 (a b c : Byte) : Byte := BitVec.ofNat 8 ((a.toNat + b.toNat + c.toNat) / 3)

/-- `reduce(img)`, a pure function (00_scope.md R11): the sample itself for one channel, the average for three
(41_embedder.md R131). Other channel counts are outside its domain (R130; log entry 18), and no command reaches it with one. -/
def reduce (img : Image) : Grid where
  h := img.h
  w := img.w
  px := fun r c => if img.channels = 1 then img.px r c 0 else average3 (img.px r c 0) (img.px r c 1) (img.px r c 2)

/-- The image in SRC (20_memory.md R66). -/
def State.srcImage (s : State) : Image where
  h := s.height
  w := s.width
  channels := s.channels
  px := s.srcSample

/-- `reduce(image in SRC)`, the grid that the image commands take from SRC (41_embedder.md R131). -/
def State.srcGrid (s : State) : Grid := reduce s.srcImage

/-- The grid in DST, one channel, used as it is (20_memory.md R67). -/
def State.dstGrid (s : State) : Grid where
  h := s.height
  w := s.width
  px := s.dstSample

/-- The grid that the operand field `M` selects (30_encoding.md R83). -/
def State.grid (s : State) : Space → Grid
  | .src => s.srcGrid
  | .dst => s.dstGrid

/-- `C` in {1, 3} (60_exceptions.md R201, `E_CHAN`). -/
def State.chanOk (s : State) : Bool := s.channels == 1 || s.channels == 3

/-- `H*W*C <= SRC_SIZE` over the unbounded integers (20_memory.md R68). -/
def State.fitsSrc (s : State) : Bool := decide (s.height * s.width * s.channels ≤ s.cfg.srcSize)

/-- `H*W <= DST_SIZE` over the unbounded integers (20_memory.md R68). -/
def State.fitsDst (s : State) : Bool := decide (s.height * s.width ≤ s.cfg.dstSize)

/-- The checks of `LUMA` and `DETECT` (60_exceptions.md R202), the first that fails. -/
def State.scanCheck (s : State) : Space → Option Err
  | .src => if !s.chanOk then some .chan else if !s.fitsSrc then some .size else none
  | .dst => if !s.fitsDst then some .size else none

/-- The checks of `EMBED` (60_exceptions.md R202), the first that fails. -/
def State.embedCheck (s : State) : Option Err :=
  if !s.chanOk then some .chan
  else if !s.fitsSrc || !s.fitsDst then some .size
  else if s.regs.strength = 0#16 then some .param
  else none

end Sys2Proof.Machine
end

