-- ==== Sys2Proof/Machine/Codec.lean ====
section
/-! DEFINITION. The payload codec and its commands `BUILD` and `PARSE` (40_codec.md). -/

namespace Sys2Proof.Machine

/-! ### From identifiers to a payload -/

/-- The UTF-8 bytes of one Unicode scalar value (the table of 40_codec.md R101). Lean's `Char` is exactly a scalar value, so
a string with a surrogate cannot be written (93_implementation_defined.md U10). -/
def utf8encChar (c : Char) : List Byte :=
  let u := c.toNat
  if u ≤ 0x007F then [BitVec.ofNat 8 u]
  else if u ≤ 0x07FF then [BitVec.ofNat 8 (0xC0 + u / 64), BitVec.ofNat 8 (0x80 + u % 64)]
  else if u ≤ 0xFFFF then
    [BitVec.ofNat 8 (0xE0 + u / 4096), BitVec.ofNat 8 (0x80 + u / 64 % 64), BitVec.ofNat 8 (0x80 + u % 64)]
  else
    [BitVec.ofNat 8 (0xF0 + u / 262144), BitVec.ofNat 8 (0x80 + u / 4096 % 64), BitVec.ofNat 8 (0x80 + u / 64 % 64),
      BitVec.ofNat 8 (0x80 + u % 64)]

/-- `utf8enc(s)`: the concatenation over the scalar values of `s` in order (40_codec.md R101). The host computes it (D6). -/
def utf8enc (s : List Char) : List Byte := s.flatMap utf8encChar

/-- `half(x)[i]` (40_codec.md R102). -/
def half (x : List Byte) (i : Nat) : Byte := if i < min x.length 16 then x[i]?.getD 0#8 else 0#8

/-- `build_payload(d, s)` (40_codec.md R102). -/
@[irreducible] def buildPayload (d s : List Byte) : Vector Byte 32 :=
  Vector.ofFn fun i => if i.val < 16 then half d i.val else half s (i.val - 16)

/-- Bit `k` of a payload's bit sequence, `p[k div 8][k mod 8]` (40_codec.md R103). -/
def payloadBit (p : Vector Byte 32) (k : Nat) : Bool := (p[k / 8]?.getD 0#8).getLsbD (k % 8)

/-- `payload_to_bits(p)`, 256 bits (40_codec.md R103). -/
def payloadToBits (p : Vector Byte 32) : List Bool := (List.range 256).map (payloadBit p)

/-- `sum over i in 0..7 of b[i] * 2^i`, one byte of `bits_to_payload` (40_codec.md R104). -/
def packByte (b : Nat → Bool) : Byte := BitVec.ofNat 8 ((List.range 8).map fun i => (b i).toNat * 2 ^ i).sum

/-- `bits_to_payload(b)` (40_codec.md R104), bits that are not supplied counting as 0. A sequence of more than 256 bits is
outside its domain (93_implementation_defined.md U11), by the second argument. -/
@[irreducible] def bitsToPayload (b : List Bool) (_short : b.length ≤ 256) : Vector Byte 32 :=
  Vector.ofFn fun j => packByte fun i => b[8 * j.val + i]?.getD false

/-! ### From a payload back to identifiers -/

/-- `strip_zeros(x)`: the longest prefix that does not end in a zero byte (40_codec.md R106). -/
def stripZeros : List Byte → List Byte
  | [] => []
  | b :: rest =>
    match stripZeros rest with
    | [] => if b = 0#8 then [] else [b]
    | c :: more => b :: c :: more

/-- Byte `i` of `x` exists and lies in `lo..hi` (a range test of 40_codec.md R107). -/
def byteIn (x : List Byte) (i lo hi : Nat) : Bool :=
  match x[i]? with
  | some b => decide (lo ≤ b.toNat) && decide (b.toNat ≤ hi)
  | none => false

/-- A continuation byte, 0x80 to 0xBF. -/
def contByte (x : List Byte) (i : Nat) : Bool := byteIn x i 0x80 0xBF

/-- `wf_len(x, i)`, row by row of the table of 40_codec.md R107; a byte beyond the end fails every test. -/
def wfLen (x : List Byte) (i : Nat) : Nat :=
  if byteIn x i 0x00 0x7F then 1
  else if byteIn x i 0xC2 0xDF then (if contByte x (i + 1) then 2 else 0)
  else if byteIn x i 0xE0 0xE0 then (if byteIn x (i + 1) 0xA0 0xBF && contByte x (i + 2) then 3 else 0)
  else if byteIn x i 0xE1 0xEC then (if contByte x (i + 1) && contByte x (i + 2) then 3 else 0)
  else if byteIn x i 0xED 0xED then (if byteIn x (i + 1) 0x80 0x9F && contByte x (i + 2) then 3 else 0)
  else if byteIn x i 0xEE 0xEF then (if contByte x (i + 1) && contByte x (i + 2) then 3 else 0)
  else if byteIn x i 0xF0 0xF0 then
    (if byteIn x (i + 1) 0x90 0xBF && contByte x (i + 2) && contByte x (i + 3) then 4 else 0)
  else if byteIn x i 0xF1 0xF3 then (if contByte x (i + 1) && contByte x (i + 2) && contByte x (i + 3) then 4 else 0)
  else if byteIn x i 0xF4 0xF4 then
    (if byteIn x (i + 1) 0x80 0x8F && contByte x (i + 2) && contByte x (i + 3) then 4 else 0)
  else 0

/-- The loop of `utf8_filter` from index `i` on, at most `fuel` turns (40_codec.md R108). -/
def utf8Loop (x : List Byte) : Nat → Nat → List Byte
  | 0, _ => []
  | fuel + 1, i =>
    if i < x.length then
      if 0 < wfLen x i then (x.drop i).take (wfLen x i) ++ utf8Loop x fuel (i + wfLen x i)
      else utf8Loop x fuel (i + 1)
    else []

/-- `utf8_filter(x)`: keep the well-formed sequences, drop every other byte (40_codec.md R108). Each turn moves `i` on, so
`|x|` turns are enough. -/
def utf8Filter (x : List Byte) : List Byte := utf8Loop x x.length 0

/-- `parse_identifiers(p)`: split at byte 16, strip, then filter (40_codec.md R109). -/
def parseIdentifiers (p : Vector Byte 32) : List Byte × List Byte :=
  (utf8Filter (stripZeros (p.toList.take 16)), utf8Filter (stripZeros (p.toList.drop 16)))

/-- A hexadecimal digit, lower case (40_codec.md R112, D20). -/
def hexDigit (n : Nat) : Char := if n < 10 then Char.ofNat (48 + n) else Char.ofNat (87 + n)

/-- `hex(p)`: two digits per byte, high digit first, byte 0 first (40_codec.md R112). -/
def hex (p : Vector Byte 32) : List Char := p.toList.flatMap fun b => [hexDigit (b.toNat / 16), hexDigit (b.toNat % 16)]

/-! ### Commands -/

/-- The staged bytes that `BUILD` takes: the first `min(LEN, 16)` (40_codec.md R110). -/
def stagedId (len : BitVec 16) (bytes : Vector Byte 16) : List Byte := bytes.toList.take (min len.toNat 16)

/-- The effect of `BUILD` (40_codec.md R110). -/
def buildEffect (s : State) : State :=
  s.withRegs (s.regs.withPayload (buildPayload (stagedId s.regs.devLen s.regs.devIn) (stagedId s.regs.sesLen s.regs.sesIn)))

/-- Sixteen result bytes, zero above the length (40_codec.md R111, D21). -/
@[irreducible] def idBytes (x : List Byte) : Vector Byte 16 := Vector.ofFn fun i => if i.val < x.length then x[i.val]?.getD 0#8 else 0#8

/-- The effect of `PARSE` (40_codec.md R111). -/
def parseEffect (s : State) : State :=
  let ids := parseIdentifiers s.regs.rpayload
  s.withRegs
    (s.regs.withParsed (idBytes ids.1) (BitVec.ofNat 5 ids.1.length) (idBytes ids.2) (BitVec.ofNat 5 ids.2.length))

/-- `BUILD` (40_codec.md R110): no error from the data. -/
def execBuild (s : State) : Outcome := command s (encode .build) none buildEffect

/-- `PARSE` (40_codec.md R111): no error from the data. -/
def execParse (s : State) : Outcome := command s (encode .parse) none parseEffect

end Sys2Proof.Machine
end

