-- ==== Sys2Proof/Machine/Control.lean ====
section
/-! DEFINITION. The control commands `NOP` and `SRST` (43_control.md). -/

namespace Sys2Proof.Machine

/-- `NOP`: no effect but `DONE` (43_control.md R190). -/
def execNop (s : State) : Outcome := command s (encode .nop) none fun t => t

/-- `SRST`: every register to its reset value, SRC and DST kept; accepted while `ERR` is 1, and `DONE` is not set
(43_control.md R191). -/
def execSrst (s : State) : Outcome := .next (s.withRegs Regs.reset)

end Sys2Proof.Machine
end

