-- ==== Sys2Proof/Machine/Embedder.lean ====
section
/-! DEFINITION. The block grid, the arithmetic of one sample, and the command `EMBED` (41_embedder.md). -/

namespace Sys2Proof.Machine

/-- `BH = H div 8` (41_embedder.md R132). -/
def Grid.blockRows (g : Grid) : Nat := g.h / 8

/-- `BW = W div 8` (41_embedder.md R132). -/
def Grid.blockCols (g : Grid) : Nat := g.w / 8

/-- `N = BH * BW`, the number of complete blocks (41_embedder.md R132). -/
def Grid.blocks (g : Grid) : Nat := g.blockRows * g.blockCols

/-- `block_of(r, c)`: the block that holds a pixel, none for a pixel of an incomplete block (41_embedder.md R133). -/
def Grid.blockOf (g : Grid) (r c : Nat) : Option Nat :=
  if r < 8 * g.blockRows ∧ c < 8 * g.blockCols then some (r / 8 * g.blockCols + c / 8) else none

/-- `bit_of(k)`, the payload's bit sequence repeated every 256 blocks (41_embedder.md R134). -/
def bitOf (p : Vector Byte 32) (k : Nat) : Bool := payloadBit p (k % 256)

/-- `round_RND(v)`, `v` in units of 1/256 (41_embedder.md R135). -/
def roundSample (rnd : Rnd) (v : Nat) : Nat :=
  match rnd with
  | .halfUp => (v + 128) / 256
  | .truncate => v / 256
  | .halfEven =>
    if 128 < v % 256 ∨ (v % 256 = 128 ∧ v / 256 % 2 = 1) then v / 256 + 1 else v / 256

/-- `v1`, the sample moved by the strength, before the clip, in units of 1/256 (41_embedder.md R135). -/
def movedSample (x : Nat) (b : Option Bool) (strength : Nat) : Int :=
  match b with
  | some true => 256 * (x : Int) + strength
  | some false => 256 * (x : Int) - strength
  | none => 256 * (x : Int)

/-- `embed_sample(x, b, S)`: moved, clipped to 0..65280, rounded (41_embedder.md R135). -/
def embedSample (rnd : Rnd) (x : Byte) (b : Option Bool) (strength : BitVec 16) : Byte :=
  BitVec.ofNat 8 (roundSample rnd (min (max (movedSample x.toNat b strength.toNat) 0) 65280).toNat)

/-- `embed_grid(g, p, S)` (41_embedder.md R136). -/
def embedGrid (rnd : Rnd) (g : Grid) (p : Vector Byte 32) (strength : BitVec 16) : Grid where
  h := g.h
  w := g.w
  px := fun r c => embedSample rnd (g.px r c) ((g.blockOf r c).map (bitOf p)) strength

/-- The samples of a grid in the order of 20_memory.md R67, row by row. -/
def Grid.bytes (g : Grid) : List Byte := (List.range (g.h * g.w)).map fun n => g.px (n / g.w) (n % g.w)

/-- The grid that `EMBED` writes (41_embedder.md R137). -/
def State.embedded (s : State) : Grid := embedGrid s.cfg.rnd s.srcGrid s.regs.payload s.regs.strength

/-- The effect of `EMBED`: the `H*W` bytes of the embedded grid stored from address 0 of DST on (41_embedder.md R137). -/
def embedEffect (s : State) : State := s.storeDst s.embedded.bytes

/-- `EMBED` (41_embedder.md R137). -/
def execEmbed (s : State) : Outcome := command s (encode .embed) s.embedCheck embedEffect

end Sys2Proof.Machine
end

