-- ==== Sys2Proof/Machine/Detector.lean ====
section
/-! DEFINITION. The detector: the commands `LUMA`, `THRESH`, `CLASSIFY`, `SCORE`, `DETECT` and the pure function `detect`
(42_detector.md). -/

namespace Sys2Proof.Machine

/-! ### Steps 1 and 2: block sums -/

/-- `NB = min(N, 256)`, the number of blocks scanned (42_detector.md R150). -/
def Grid.scanned (g : Grid) : Nat := min g.blocks 256

/-- `block_sum(g, k)` (42_detector.md R151). -/
def Grid.blockSum (g : Grid) (k : Nat) : Nat :=
  ((List.range 8).map fun i =>
    ((List.range 8).map fun j => (g.px (8 * (k / g.blockCols) + i) (8 * (k % g.blockCols) + j)).toNat).sum).sum

/-- `SUM[0..255]` after a scan of `g`: the sums of the scanned blocks, 0 above them (42_detector.md R152, D16). -/
@[irreducible] def Grid.sumRegs (g : Grid) : Vector (BitVec 14) 256 :=
  Vector.ofFn fun k => if k.val < g.scanned then BitVec.ofNat 14 (g.blockSum k.val) else 0#14

/-- The effect of `LUMA`: `NBLK` and `SUM` of the grid that `M` selects (42_detector.md R152). -/
def lumaEffect (m : Space) (s : State) : State :=
  s.withRegs (s.regs.withSums (BitVec.ofNat 9 (s.grid m).scanned) (s.grid m).sumRegs)

/-! ### Step 3: the threshold -/

/-- `[SUM[0], ..., SUM[NBLK-1]]` (42_detector.md R155). -/
def Regs.sums (r : Regs) : List Nat := (r.sum.toList.take r.nblk.toNat).map BitVec.toNat

/-- Twice the median of a list that is already in non-decreasing order (42_detector.md R154). -/
def median2Sorted (y : List Nat) : Nat :=
  if y.length = 0 then 0
  else if y.length % 2 = 1 then 2 * y[(y.length - 1) / 2]?.getD 0
  else y[y.length / 2 - 1]?.getD 0 + y[y.length / 2]?.getD 0

/-- `median2(x)`: twice the median (42_detector.md R154). -/
def median2 (x : List Nat) : Nat := median2Sorted (x.insertionSort (· ≤ ·))

/-- The effect of `THRESH` (42_detector.md R155). -/
def threshEffect (s : State) : State := s.withRegs (s.regs.withThr2 (BitVec.ofNat 15 (median2 s.regs.sums)))

/-! ### Step 4: the classifier -/

/-- `classify_bits(x, t2)[k]`: strict, and 0 beyond the scanned blocks (42_detector.md R156). -/
def classifyBit (x : List Nat) (t2 k : Nat) : Bool :=
  match x[k]? with
  | some v => decide (t2 < 2 * v)
  | none => false

/-- `classify_bits(x, t2)`, 256 bits (42_detector.md R156). -/
def classifyBits (x : List Nat) (t2 : Nat) : List Bool := (List.range 256).map (classifyBit x t2)

theorem classifyBits_length_le (x : List Nat) (t2 : Nat) : (classifyBits x t2).length ≤ 256 := by
  simp [classifyBits]

/-- The effect of `CLASSIFY` (42_detector.md R157). -/
def classifyEffect (s : State) : State :=
  s.withRegs (s.regs.withRpayload
    (bitsToPayload (classifyBits s.regs.sums s.regs.thr2.toNat) (classifyBits_length_le _ _)))

/-! ### Steps 6 and 7: confidence and found -/

/-- `confidence_num(b) = max(ones, 256 - ones)` (42_detector.md R158, R159). -/
def confidenceNum (b : List Bool) : Nat := max (b.count true) (256 - b.count true)

/-- `found` from the length of the decoded device identifier and the confidence (42_detector.md R160, D18). -/
def foundFlag (idLen conf : Nat) : Bool := decide (0 < idLen) && decide (128 < conf)

/-- The effect of `SCORE` (42_detector.md R161). -/
def scoreEffect (s : State) : State :=
  let c := confidenceNum (payloadToBits s.regs.rpayload)
  s.withRegs (s.regs.withScore (BitVec.ofNat 9 c) (foundFlag s.regs.rdevLen.toNat c))

/-! ### The whole detector -/

/-- The effect of `DETECT`: the five stages in order, each reading what the one before it wrote (42_detector.md R163). -/
def detectEffect (m : Space) (s : State) : State :=
  scoreEffect (parseEffect (classifyEffect (threshEffect (lumaEffect m s))))

/-- The document's detection result (42_detector.md R162). The identifiers are the UTF-8 bytes of the two strings;
`confNum` is 256 times the confidence. -/
structure DetectResult where
  found : Bool
  deviceId : List Byte
  sessionId : List Byte
  confNum : Nat
  payload : List Char
  deriving DecidableEq, Repr

/-- The confidence as a rational (42_detector.md R162). -/
def DetectResult.confidence (r : DetectResult) : ℚ := (r.confNum : ℚ) / 256

/-- The detection result as the host reads it from the registers (42_detector.md R162). -/
def Regs.result (r : Regs) : DetectResult where
  found := r.found
  deviceId := r.rdev.toList.take r.rdevLen.toNat
  sessionId := r.rses.toList.take r.rsesLen.toNat
  confNum := r.conf.toNat
  payload := hex r.rpayload

/-- `detect(g)`, the pure function from a grid to the result (42_detector.md R164). -/
def detect (g : Grid) : DetectResult :=
  let x := (List.range g.scanned).map g.blockSum
  let b := classifyBits x (median2 x)
  let p := bitsToPayload b (classifyBits_length_le _ _)
  let ids := parseIdentifiers p
  let cn := confidenceNum b
  { found := foundFlag ids.1.length cn, deviceId := ids.1, sessionId := ids.2, confNum := cn, payload := hex p }

/-! ### Commands -/

/-- `LUMA` (42_detector.md R152). -/
def execLuma (m : Space) (s : State) : Outcome := command s (encode (.luma m)) (s.scanCheck m) (lumaEffect m)

/-- `THRESH` (42_detector.md R155): no error from the data. -/
def execThresh (s : State) : Outcome := command s (encode .thresh) none threshEffect

/-- `CLASSIFY` (42_detector.md R157): no error from the data. -/
def execClassify (s : State) : Outcome := command s (encode .classify) none classifyEffect

/-- `SCORE` (42_detector.md R161): no error from the data. -/
def execScore (s : State) : Outcome := command s (encode .score) none scoreEffect

/-- `DETECT` (42_detector.md R163): the checks of `LUMA` with this command's word, then all five stages. -/
def execDetect (m : Space) (s : State) : Outcome := command s (encode (.detect m)) (s.scanCheck m) (detectEffect m)

end Sys2Proof.Machine
end

