-- ==== Sys2Proof/Machine/Dispatch.lean ====
section
/-! DEFINITION. One arm per command: what executing a legal command does (30_encoding.md R85 steps 1 and 4 to 6). -/

namespace Sys2Proof.Machine

def exec (i : Instr) (s : State) : Host.Outcome State Fault Refusal :=
  match i with
  | .nop => Sys2Proof.Machine.execNop s
  | .build => Sys2Proof.Machine.execBuild s
  | .embed => Sys2Proof.Machine.execEmbed s
  | .luma m => Sys2Proof.Machine.execLuma m s
  | .thresh => Sys2Proof.Machine.execThresh s
  | .classify => Sys2Proof.Machine.execClassify s
  | .parse => Sys2Proof.Machine.execParse s
  | .score => Sys2Proof.Machine.execScore s
  | .detect m => Sys2Proof.Machine.execDetect m s
  | .srst => Sys2Proof.Machine.execSrst s

end Sys2Proof.Machine
end

