-- ==== Sys2Proof/Machine/Port.lean ====
section
/-! DEFINITION. The host's side of the machine: issuing a command word, and the eight host operations (20_memory.md R61). -/

namespace Sys2Proof.Machine

/-- A word written to `CMD` (30_encoding.md R85). A word that is no legal command raises its error unless `ERR` drops it; a
legal one is executed by `exec`, whose meanings drop themselves while `ERR` is 1, all but `SRST`. -/
def issue (w : Word) (s : State) : Outcome :=
  match decode w with
  | .ok i => exec i s
  | .error e => rejectWord s w e

/-- A value returned to the host. -/
def State.reply (s : State) (v : Reply) : State := { s with replies := v :: s.replies }

/-- Hardware reset (70_reset_and_hazards.md R230): every register at its reset value, SRC and DST unspecified from here on
(nothing listed, and other free bytes than before). -/
def State.hardwareReset (s : State) : State :=
  { s with regs := Regs.reset, src := [], dst := [], resets := s.resets + 1 }

/-- `RegRead(off)`: the register's value is returned, no state changes; a misaligned or empty offset is refused
(20_memory.md R61, R63). -/
def hostRegRead (off : Nat) (s : State) : Outcome :=
  match regAt off with
  | some r => .next (s.reply (.word (s.regs.read r)))
  | none => .refused (.noRegister off)

/-- `RegWrite(off, v)`: a write of `CMD` executes the command word `v`, any other stores by `Regs.write`; a misaligned or
empty offset is refused (20_memory.md R61, R63). -/
def hostRegWrite (off : Nat) (v : Word) (s : State) : Outcome :=
  match regAt off with
  | some .cmd => issue v s
  | some r => .next (s.withRegs (s.regs.write v r))
  | none => .refused (.noRegister off)

/-- `SrcRead(a)` (20_memory.md R61, R64). -/
def hostSrcRead (a : Nat) (s : State) : Outcome :=
  if a < s.cfg.srcSize then .next (s.reply (.byte (s.readByte .src a))) else .refused (.srcOutOfRange a)

/-- `SrcWrite(a, b)` (20_memory.md R61, R64). -/
def hostSrcWrite (a : Nat) (b : Byte) (s : State) : Outcome :=
  if a < s.cfg.srcSize then .next (s.writeSrc a b) else .refused (.srcOutOfRange a)

/-- `DstRead(a)` (20_memory.md R61, R64). -/
def hostDstRead (a : Nat) (s : State) : Outcome :=
  if a < s.cfg.dstSize then .next (s.reply (.byte (s.readByte .dst a))) else .refused (.dstOutOfRange a)

/-- `DstWrite(a, b)` (20_memory.md R61, R64). -/
def hostDstWrite (a : Nat) (b : Byte) (s : State) : Outcome :=
  if a < s.cfg.dstSize then .next (s.writeDst a b) else .refused (.dstOutOfRange a)

/-- One host operation, one atomic transition (20_memory.md R61, R72). -/
def hostOp (op : HostOp) (s : State) : Outcome :=
  match op with
  | .regRead off => hostRegRead off s
  | .regWrite off v => hostRegWrite off v s
  | .srcRead a => hostSrcRead a s
  | .srcWrite a b => hostSrcWrite a b s
  | .dstRead a => hostDstRead a s
  | .dstWrite a b => hostDstWrite a b s
  | .reset => .next s.hardwareReset
  | .irqSample => .next (s.reply (.level s.regs.irq))

end Sys2Proof.Machine
end

