-- ==== Sys2Proof/Machine/Step.lean ====
section
/-! DEFINITION. One step: the oldest host operation still to be issued takes effect (10_state.md R21, 20_memory.md R72). -/

namespace Sys2Proof.Machine

/-- The state once the host has issued its oldest operation and `rest` are left. -/
def State.withPending (s : State) (rest : List HostOp) : State := { s with pending := rest }

/-- One transition. With nothing pending the IBBE is idle: "nothing runs until the host writes `CMD`"
(70_reset_and_hazards.md R231; log entry 5). -/
def step (s : State) : Host.Outcome State Fault Refusal :=
  match s.pending with
  | [] => .next s
  | op :: rest => hostOp op (s.withPending rest)

/-- The IBBE fetches nothing (10_state.md R21): its next command is the one the host writes to `CMD` next, so the word is
put first among the operations still to be issued. -/
def State.withFetchWord (s : State) (nbits w : Nat) : State :=
  s.withPending (.regWrite 0x000 (BitVec.ofNat 32 (w % 2 ^ nbits)) :: s.pending)

end Sys2Proof.Machine
end

