-- ==== Sys2Proof/Machine/Assembler.lean ====
section
/-! DEFINITION. The notation of host programs: each line and pseudo-operation of 30_encoding.md R89 and the host operations
it stands for. -/

namespace Sys2Proof.Machine

/-- One line of a host program. A register of a byte array is named with its word (`wr NAME.j, v`). -/
inductive AsmLine where
  /-- `cmd NOP`, …, `cmd LUMA src`, `cmd DETECT dst`. -/
  | cmd (i : Instr)
  /-- `cmd.w 0xXXXXXXXX`. -/
  | cmdWord (w : Word)
  /-- `wr NAME, v` and `wr NAME.j, v`. -/
  | wr (r : Reg) (v : Word)
  /-- `rd NAME` and `rd NAME.j`. -/
  | rd (r : Reg)
  /-- `ack v`. -/
  | ack (v : Word)
  /-- `sb a, b`. -/
  | sb (a : Nat) (b : Byte)
  /-- `lb a`. -/
  | lb (a : Nat)
  /-- `db a`. -/
  | db (a : Nat)
  /-- `dw a, b`. -/
  | dw (a : Nat) (b : Byte)
  /-- `reset`. -/
  | reset
  /-- `cmd LUMA` without an operand. -/
  | lumaPseudo
  /-- `cmd DETECT` without an operand. -/
  | detectPseudo
  /-- `fill a, n, b`. -/
  | fill (a n : Nat) (b : Byte)
  /-- `setid DEV, "text"`. -/
  | setidDev (text : List Char)
  /-- `setid SES, "text"`. -/
  | setidSes (text : List Char)
  /-- `image H, W, C`. -/
  | image (h w c : Word)
  deriving DecidableEq, Repr

/-- The write of a register by its offset. -/
def writeOp (r : Reg) (v : Word) : HostOp := .regWrite (regOffset r) v

/-- The 16-byte array of `setid`: the first `min(n, 16)` bytes of the encoding, then zeros (30_encoding.md R89). -/
def stagedBytes (e : List Byte) : Vector Byte 16 := Vector.ofFn fun i => half e i.val

/-- The expansion of `setid`: the length register `len`, then the four words of the array `arr` (30_encoding.md R89). -/
def setidOps (len : Reg) (arr : Fin 4 → Reg) (text : List Char) : List HostOp :=
  let e := utf8enc text
  writeOp len (BitVec.ofNat 32 (min e.length 65535)) ::
    (List.finRange 4).map fun j => writeOp (arr j) (wordAt (stagedBytes e) j.val)

/-- The host operations of a line (30_encoding.md R89). -/
def AsmLine.expand : AsmLine → List HostOp
  | .cmd i => [.regWrite 0x000 (encode i)]
  | .cmdWord w => [.regWrite 0x000 w]
  | .wr r v => [writeOp r v]
  | .rd r => [.regRead (regOffset r)]
  | .ack v => [.regWrite 0x004 v]
  | .sb a b => [.srcWrite a b]
  | .lb a => [.srcRead a]
  | .db a => [.dstRead a]
  | .dw a b => [.dstWrite a b]
  | .reset => [.reset]
  | .lumaPseudo => [.regWrite 0x000 (encode (.luma .src))]
  | .detectPseudo => [.regWrite 0x000 (encode (.detect .src))]
  | .fill a n b => (List.range n).map fun i => .srcWrite (a + i) b
  | .setidDev text => setidOps .devLen .devIn text
  | .setidSes text => setidOps .sesLen .sesIn text
  | .image h w c => [writeOp .imgH h, writeOp .imgW w, writeOp .imgC c]

/-- A host program from its lines. -/
def assemble (p : List AsmLine) : List HostOp := p.flatMap AsmLine.expand

end Sys2Proof.Machine
end

