-- ==== Sys2Proof/Safety.lean ====
section
/-! DEFINITION. The terms that claims use: the invariant of every run, host programs that are never refused, and the
quantities the spec's rules speak of, written from the rules and not from the meanings. -/

namespace Sys2Proof

open Sys2Proof.Machine

/-! ### Well-formed UTF-8 and identifiers -/

/-- A byte string is well-formed UTF-8 when it is the encoding of a string (40_codec.md R108, R109). -/
def IsUtf8 (x : List Byte) : Prop := ∃ s : List Char, utf8enc s = x

/-- A decoded identifier as the result registers hold it (10_state.md R41, R42): a length of at most 16, well-formed UTF-8
below it, zero above it. -/
structure IdRegsWf (bytes : Vector Byte 16) (len : BitVec 5) : Prop where
  len_le : len.toNat ≤ 16
  utf8 : IsUtf8 (bytes.toList.take len.toNat)
  zero_above : ∀ (i : Nat) (h : i < 16), len.toNat ≤ i → bytes[i] = 0#8

/-! ### The invariant -/

/-- What every reachable register file satisfies (10_state.md R28, R37 to R43; 93_implementation_defined.md U13). -/
structure RegsInv (r : Regs) : Prop where
  errCode_le : r.errCode.toNat ≤ 5
  err_recorded : r.err = true → r.errCode ≠ 0#4
  nblk_le : r.nblk.toNat ≤ 256
  sum_le : ∀ (k : Nat) (h : k < 256), r.sum[k].toNat ≤ 16320
  sum_zero_above : ∀ (k : Nat) (h : k < 256), r.nblk.toNat ≤ k → r.sum[k] = 0#14
  thr2_le : r.thr2.toNat ≤ 32640
  conf_range : r.conf = 0#9 ∨ (128 ≤ r.conf.toNat ∧ r.conf.toNat ≤ 256)
  found_conf : r.found = true → 128 < r.conf.toNat
  rdev_wf : IdRegsWf r.rdev r.rdevLen
  rses_wf : IdRegsWf r.rses r.rsesLen

/-- A memory in canonical form, inside its installed size (20_memory.md R60, R64). -/
structure MemoryInv (m : Memory) (size : Nat) : Prop where
  canonical : m.wf
  in_range : ∀ c ∈ m, c.1 < size

/-- The invariant of every run of an IBBE instance. -/
structure StateInv (s : State) : Prop where
  regs : RegsInv s.regs
  src : MemoryInv s.src s.cfg.srcSize
  dst : MemoryInv s.dst s.cfg.dstSize
  cfg : s.cfg.wf

/-- No operation still to be issued is one that the model refuses (20_memory.md R63, R64). -/
def PendingWf (s : State) : Prop := programWf s.cfg s.pending = true

/-- "No command ended with an error" that is not acknowledged (60_exceptions.md R209). -/
def NoError (s : State) : Prop := s.regs.err = false

/-! ### Quantities of the rules -/

/-- The state after error entry with code `code` for the command word `w`: `ERRCODE`, `ERRCMD` and `STATUS.ERR` are written
and nothing else is changed (60_exceptions.md R204). -/
def errorTaken (code : BitVec 4) (w : Word) (s : State) : State :=
  { s with regs := { s.regs with errCode := code, errCmd := w, err := true } }

/-- "`E_RSVD` if" the reserved field "of the word [is] not 0": every word whose `OP` is `op` and whose low 24 bits are at
least `least` (1 in format Z, 2 in format S), issued while `ERR` is 0, takes the error (30_encoding.md R86). -/
def ReservedWordRaises (op least : Nat) : Prop :=
  ∀ (s : State) (w : Word) (rest : List HostOp), s.pending = .regWrite 0x000 w :: rest → NoError s →
    w.toNat / 2 ^ 24 = op → least ≤ w.toNat % 2 ^ 24 → step s = .next (errorTaken 2#4 w { s with pending := rest })

/-- The sample that an image command scans at row `r`, column `c`: of the image in SRC, reduced, or of the grid in DST
(20_memory.md R66, R67; 41_embedder.md R131). -/
def sampleOf (s : State) (m : Space) (r c : Nat) : Nat :=
  let pixel := r * s.regs.imgW.toNat + c
  match m with
  | .dst => (s.readByte .dst pixel).toNat
  | .src =>
    if s.regs.imgC = 1#8 then (s.readByte .src pixel).toNat
    else
      ((s.readByte .src (3 * pixel)).toNat + (s.readByte .src (3 * pixel + 1)).toNat +
        (s.readByte .src (3 * pixel + 2)).toNat) / 3

/-- The channel count is legal where it is read (60_exceptions.md R202, column `E_CHAN`). -/
def ChannelsLegal (s : State) (m : Space) : Prop := m = .src → s.regs.imgC = 1#8 ∨ s.regs.imgC = 3#8

/-- The scanned image fits the installed memory (20_memory.md R68). -/
def ImageFits (s : State) (m : Space) : Prop :=
  match m with
  | .src => s.regs.imgH.toNat * s.regs.imgW.toNat * s.regs.imgC.toNat ≤ s.cfg.srcSize
  | .dst => s.regs.imgH.toNat * s.regs.imgW.toNat ≤ s.cfg.dstSize

/-- The number of complete blocks of the current image (41_embedder.md R132). -/
def blockCount (s : State) : Nat := (s.regs.imgH.toNat / 8) * (s.regs.imgW.toNat / 8)

/-- The sum of the 64 samples of block `k` (42_detector.md R151). -/
def blockSumOf (s : State) (m : Space) (k : Nat) : Nat :=
  ∑ i ∈ Finset.range 8, ∑ j ∈ Finset.range 8,
    sampleOf s m (8 * (k / (s.regs.imgW.toNat / 8)) + i) (8 * (k % (s.regs.imgW.toNat / 8)) + j)

/-- The number of one bits among the first `n` bits of a payload's bit sequence (40_codec.md R103). -/
def onesBelow (p : Vector Byte 32) (n : Nat) : Nat := ((payloadToBits p).take n).count true

/-- The bits of a register word that the map of 10_state.md R24 defines (its column "bits"); all bits of `CMD` read 0. -/
def regBits : Reg → Word
  | .cmd => 0#32
  | .status => 0x7#32
  | .ie => 0x6#32
  | .errCode => 0xF#32
  | .errCmd => 0xFFFFFFFF#32
  | .imgH => 0xFFFF#32
  | .imgW => 0xFFFF#32
  | .imgC => 0xFF#32
  | .strength => 0xFFFF#32
  | .devLen => 0xFFFF#32
  | .sesLen => 0xFFFF#32
  | .devIn _ => 0xFFFFFFFF#32
  | .sesIn _ => 0xFFFFFFFF#32
  | .payload _ => 0xFFFFFFFF#32
  | .rpayload _ => 0xFFFFFFFF#32
  | .nblk => 0x1FF#32
  | .thr2 => 0x7FFF#32
  | .conf => 0x1FF#32
  | .found => 0x1#32
  | .rdevLen => 0x1F#32
  | .rsesLen => 0x1F#32
  | .rdev _ => 0xFFFFFFFF#32
  | .rses _ => 0xFFFFFFFF#32
  | .sum _ => 0x3FFF#32

/-- The access column of 10_state.md R24. -/
inductive Access where
  | rw
  | ro
  | commandPort
  | writeOneToClear
  deriving DecidableEq, Repr

/-- How the host may access a register (10_state.md R24). -/
def regAccess : Reg → Access
  | .cmd => .commandPort
  | .status => .writeOneToClear
  | .ie => .rw
  | .errCode => .ro
  | .errCmd => .ro
  | .imgH => .rw
  | .imgW => .rw
  | .imgC => .rw
  | .strength => .rw
  | .devLen => .rw
  | .sesLen => .rw
  | .devIn _ => .rw
  | .sesIn _ => .rw
  | .payload _ => .rw
  | .rpayload _ => .rw
  | .nblk => .ro
  | .thr2 => .ro
  | .conf => .ro
  | .found => .ro
  | .rdevLen => .ro
  | .rsesLen => .ro
  | .rdev _ => .ro
  | .rses _ => .ro
  | .sum _ => .ro

/-- The reset value of a register word (10_state.md R24, column "reset"; R47). -/
def regResetWord : Reg → Word
  | .strength => 0x0100#32
  | .imgC => 1#32
  | _ => 0#32

end Sys2Proof
end

