-- ==== Sys2Proof/Certificates/Slice0/Obligations.lean ====
section
/-! DEFINITION. The statements for the provers. Each docstring names the rule of spec/ that it formalises. -/

open Sys2Proof Sys2Proof.Machine

/-! ### Encoding (30_encoding.md) -/

/-- R84: the twelve legal words, written out, and the commands they stand for. -/
def Obligations.TableWordsDecode : Prop :=
  decodeTableWord 32 0x00000000 = some .nop ∧ decodeTableWord 32 0x01000000 = some .build ∧
    decodeTableWord 32 0x02000000 = some .embed ∧ decodeTableWord 32 0x03000000 = some (.luma .src) ∧
    decodeTableWord 32 0x03000001 = some (.luma .dst) ∧ decodeTableWord 32 0x04000000 = some .thresh ∧
    decodeTableWord 32 0x05000000 = some .classify ∧ decodeTableWord 32 0x06000000 = some .parse ∧
    decodeTableWord 32 0x07000000 = some .score ∧ decodeTableWord 32 0x08000000 = some (.detect .src) ∧
    decodeTableWord 32 0x08000001 = some (.detect .dst) ∧ decodeTableWord 32 0xFF000000 = some .srst

/-- R84, R86: a word decodes to a command exactly when it is that command's one word. So encoding and decoding agree in both
directions, over all commands and all 2^32 words. -/
def Obligations.DecodeAgreesWithEncode : Prop :=
  ∀ (w : Word) (i : Instr), decode w = .ok i ↔ w = encode i

/-- R86: the other words by class. `E_ILLCMD` exactly when `OP` is 0x09 to 0xFE; `E_RSVD` exactly when `OP` is assigned and the
reserved field (bits 23:1 in format S, bits 23:0 in format Z) is not 0. -/
def Obligations.IllegalWordsByClass : Prop :=
  ∀ w : Word,
    (decode w = .error .opcode ↔ 0x09 ≤ w.toNat / 2 ^ 24 ∧ w.toNat / 2 ^ 24 ≤ 0xFE) ∧
      (decode w = .error .reserved ↔
        ¬(0x09 ≤ w.toNat / 2 ^ 24 ∧ w.toNat / 2 ^ 24 ≤ 0xFE) ∧
          (if w.toNat / 2 ^ 24 = 0x03 ∨ w.toNat / 2 ^ 24 = 0x08 then 2 else 1) ≤ w.toNat % 2 ^ 24)

/-! ### Issuing a word; errors (30_encoding.md R85, 60_exceptions.md) -/

/-- R85: a step whose next host operation writes a legal word to `CMD` is `exec` of the command it decodes to, with that
operation taken off the list. -/
def Obligations.StepRunsTheDecodedCommand : Prop :=
  ∀ (s : State) (w : Word) (i : Instr) (rest : List HostOp),
    s.pending = .regWrite 0x000 w :: rest → decode w = .ok i → step s = exec i { s with pending := rest }

/-- R86, R201, R204: a word that is no legal command, issued while `ERR` is 0, writes its error's code, the word and `ERR`, and
changes no other register, no flag and no memory byte. -/
def Obligations.IllegalWordTakesItsError : Prop :=
  ∀ (s : State) (w : Word) (rest : List HostOp), s.pending = .regWrite 0x000 w :: rest → NoError s →
    (0x09 ≤ w.toNat / 2 ^ 24 ∧ w.toNat / 2 ^ 24 ≤ 0xFE → step s = .next (errorTaken 1#4 w { s with pending := rest })) ∧
      (¬(0x09 ≤ w.toNat / 2 ^ 24 ∧ w.toNat / 2 ^ 24 ≤ 0xFE) →
        (if w.toNat / 2 ^ 24 = 0x03 ∨ w.toNat / 2 ^ 24 = 0x08 then 2 else 1) ≤ w.toNat % 2 ^ 24 →
          step s = .next (errorTaken 2#4 w { s with pending := rest }))

/-- R206: while `ERR` is 1 every word written to `CMD` other than exactly 0xFF000000 changes no state. -/
def Obligations.CommandsDroppedWhileErr : Prop :=
  ∀ (s : State) (w : Word) (rest : List HostOp), s.pending = .regWrite 0x000 w :: rest → s.regs.err = true →
    w ≠ 0xFF000000#32 → step s = .next { s with pending := rest }

/-- R206, R207, R208: a recorded error stays, with its code and its word, until the host acknowledges it (which keeps code and
word), issues `SRST` or resets. -/
def Obligations.ErrorRecordStaysUntilCleared : Prop :=
  ∀ s t : State, s.regs.err = true → step s = .next t →
    (t.regs.err = true ∧ t.regs.errCode = s.regs.errCode ∧ t.regs.errCmd = s.regs.errCmd) ∨
      (∃ v rest, s.pending = .regWrite 0x004 v :: rest ∧ v.getLsbD 2 = true ∧ t.regs.err = false ∧
        t.regs.errCode = s.regs.errCode ∧ t.regs.errCmd = s.regs.errCmd) ∨
      (∃ rest, (s.pending = .regWrite 0x000 0xFF000000#32 :: rest ∨ s.pending = .reset :: rest) ∧ t.regs = Regs.reset)

/-! ### Commands -/

/-- R190: `NOP` has no effect but `DONE`; dropped while `ERR` is 1. -/
def Obligations.NopOnlySetsDone : Prop :=
  encode .nop = 0x00000000#32 ∧ ReservedWordRaises 0x00 1 ∧
    (∀ s : State, NoError s → exec .nop s = .next { s with regs := { s.regs with done := true } }) ∧
      ∀ s : State, s.regs.err = true → exec .nop s = .next s

/-- R110: `BUILD`. Its whole next state: the 32 payload bytes, `DONE`, and nothing else; and what the payload is when the
staging registers hold two texts as the `setid` protocol of R89 leaves them (the length saturated at 65535, the first bytes of
the encoding): `build_payload` of the two encodings, whatever their lengths. -/
def Obligations.BuildMarshalsStagedBytes : Prop :=
  encode .build = 0x01000000#32 ∧ ReservedWordRaises 0x01 1 ∧
    (∀ s : State, NoError s → ∃ p : Vector Byte 32,
      exec .build s = .next { s with regs := { s.regs with payload := p, done := true } } ∧
        (∀ (i : Nat) (h : i < 16), p[i] = if i < min s.regs.devLen.toNat 16 then s.regs.devIn[i] else 0#8) ∧
          ∀ (i : Nat) (h : i < 16), p[16 + i] = if i < min s.regs.sesLen.toNat 16 then s.regs.sesIn[i] else 0#8) ∧
      ∀ (s : State) (d e : List Char), NoError s →
        s.regs.devLen.toNat = min (utf8enc d).length 65535 → s.regs.sesLen.toNat = min (utf8enc e).length 65535 →
        (∀ (i : Nat) (h : i < 16) (hl : i < (utf8enc d).length), s.regs.devIn[i] = (utf8enc d)[i]) →
        (∀ (i : Nat) (h : i < 16) (hl : i < (utf8enc e).length), s.regs.sesIn[i] = (utf8enc e)[i]) →
        exec .build s =
          .next { s with regs := { s.regs with payload := buildPayload (utf8enc d) (utf8enc e), done := true } }

/-- R111: `PARSE`. Its whole next state: the two identifiers with their lengths, zero fill, `DONE`, and nothing else. -/
def Obligations.ParseSplitsThePayload : Prop :=
  encode .parse = 0x06000000#32 ∧ ReservedWordRaises 0x06 1 ∧
    ∀ s : State, NoError s → ∃ (d e : Vector Byte 16) (dn en : BitVec 5),
      exec .parse s =
          .next { s with regs := { s.regs with rdev := d, rdevLen := dn, rses := e, rsesLen := en, done := true } } ∧
        dn.toNat = (parseIdentifiers s.regs.rpayload).1.length ∧ en.toNat = (parseIdentifiers s.regs.rpayload).2.length ∧
          (∀ (i : Nat) (h : i < 16), d[i] = (parseIdentifiers s.regs.rpayload).1[i]?.getD 0#8) ∧
            ∀ (i : Nat) (h : i < 16), e[i] = (parseIdentifiers s.regs.rpayload).2[i]?.getD 0#8

/-- R137 (with R66 to R68, R134, R136): `EMBED`. Its three checks in their order, each error leaving everything else alone;
and on success the whole next state: every pixel's byte in DST, every other byte of DST and all of SRC as before, `DONE`, and
nothing else. -/
def Obligations.EmbedWritesTheMarkedGrid : Prop :=
  encode .embed = 0x02000000#32 ∧ ReservedWordRaises 0x02 1 ∧
    ∀ s : State, NoError s →
      (¬ChannelsLegal s .src → exec .embed s = .next (errorTaken 3#4 0x02000000#32 s)) ∧
      (ChannelsLegal s .src → ¬(ImageFits s .src ∧ ImageFits s .dst) →
        exec .embed s = .next (errorTaken 4#4 0x02000000#32 s)) ∧
      (ChannelsLegal s .src → ImageFits s .src → ImageFits s .dst → s.regs.strength = 0#16 →
        exec .embed s = .next (errorTaken 5#4 0x02000000#32 s)) ∧
      (ChannelsLegal s .src → ImageFits s .src → ImageFits s .dst → s.regs.strength ≠ 0#16 →
        ∃ t : State, exec .embed s = .next t ∧ t = { s with dst := t.dst, regs := { s.regs with done := true } } ∧
          (∀ r c : Nat, r < s.regs.imgH.toNat → c < s.regs.imgW.toNat →
            t.readByte .dst (r * s.regs.imgW.toNat + c) =
              embedSample s.cfg.rnd (BitVec.ofNat 8 (sampleOf s .src r c))
                (if r < 8 * (s.regs.imgH.toNat / 8) ∧ c < 8 * (s.regs.imgW.toNat / 8) then
                  (payloadToBits s.regs.payload)[(r / 8 * (s.regs.imgW.toNat / 8) + c / 8) % 256]?
                else none)
                s.regs.strength) ∧
          ∀ a : Nat, s.regs.imgH.toNat * s.regs.imgW.toNat ≤ a → t.readByte .dst a = s.readByte .dst a)

/-- R152 (with R150, R151): `LUMA` on either memory. Its checks in their order, and on success the whole next state: `NBLK`, the
block sums with 0 above them, `DONE`, and nothing else. -/
def Obligations.LumaExtractsBlockSums : Prop :=
  encode (.luma .src) = 0x03000000#32 ∧ encode (.luma .dst) = 0x03000001#32 ∧ ReservedWordRaises 0x03 2 ∧
    ∀ (m : Space) (s : State), NoError s →
      (¬ChannelsLegal s m → exec (.luma m) s = .next (errorTaken 3#4 (encode (.luma m)) s)) ∧
      (ChannelsLegal s m → ¬ImageFits s m → exec (.luma m) s = .next (errorTaken 4#4 (encode (.luma m)) s)) ∧
      (ChannelsLegal s m → ImageFits s m →
        ∃ (n : BitVec 9) (x : Vector (BitVec 14) 256),
          exec (.luma m) s = .next { s with regs := { s.regs with nblk := n, sum := x, done := true } } ∧
            n.toNat = min (blockCount s) 256 ∧
              ∀ (k : Nat) (h : k < 256), x[k].toNat = if k < min (blockCount s) 256 then blockSumOf s m k else 0)

/-- R155: `THRESH`. Its whole next state. `NBLK` at most 256 is part of the invariant that `StepKeepsInvariant` states. -/
def Obligations.ThreshTakesTheMedian : Prop :=
  encode .thresh = 0x04000000#32 ∧ ReservedWordRaises 0x04 1 ∧
    ∀ s : State, NoError s → s.regs.nblk.toNat ≤ 256 → ∃ t2 : BitVec 15,
      exec .thresh s = .next { s with regs := { s.regs with thr2 := t2, done := true } } ∧
        t2.toNat = median2 ((List.range s.regs.nblk.toNat).map fun k => (s.regs.sum[k]?.getD 0#14).toNat)

/-- R157 (with R156): `CLASSIFY`. Its whole next state: decoded bit `k` is 1 exactly when block `k` was scanned and its mean
exceeds the threshold. -/
def Obligations.ClassifyPacksTheBits : Prop :=
  encode .classify = 0x05000000#32 ∧ ReservedWordRaises 0x05 1 ∧
    ∀ s : State, NoError s → s.regs.nblk.toNat ≤ 256 → ∃ p : Vector Byte 32,
      exec .classify s = .next { s with regs := { s.regs with rpayload := p, done := true } } ∧
        ∀ (k : Nat) (h : k < 256),
          p[k / 8].getLsbD (k % 8) = decide (k < s.regs.nblk.toNat ∧ s.regs.thr2.toNat < 2 * s.regs.sum[k].toNat)

/-- R161: `SCORE`. Its whole next state: confidence from the number of one bits, found from `RDEV_LEN` and the new
confidence. -/
def Obligations.ScoreCountsTheMajority : Prop :=
  encode .score = 0x07000000#32 ∧ ReservedWordRaises 0x07 1 ∧
    ∀ s : State, NoError s → ∃ (c : BitVec 9) (f : Bool),
      exec .score s = .next { s with regs := { s.regs with conf := c, found := f, done := true } } ∧
        c.toNat =
            max (∑ j : Fin 32, ∑ i : Fin 8, (s.regs.rpayload[j].getLsbD i.val).toNat)
              (256 - ∑ j : Fin 32, ∑ i : Fin 8, (s.regs.rpayload[j].getLsbD i.val).toNat) ∧
          f = decide (0 < s.regs.rdevLen.toNat ∧ 128 < c.toNat)

/-- R163: `DETECT` on either memory. Its checks in their order; and on success it equals the five stage commands issued in
order. -/
def Obligations.DetectIsTheFiveStages : Prop :=
  encode (.detect .src) = 0x08000000#32 ∧ encode (.detect .dst) = 0x08000001#32 ∧ ReservedWordRaises 0x08 2 ∧
    ∀ (m : Space) (s : State), NoError s →
      (¬ChannelsLegal s m → exec (.detect m) s = .next (errorTaken 3#4 (encode (.detect m)) s)) ∧
      (ChannelsLegal s m → ¬ImageFits s m → exec (.detect m) s = .next (errorTaken 4#4 (encode (.detect m)) s)) ∧
      (ChannelsLegal s m → ImageFits s m →
        ∃ t1 t2 t3 t4 t : State,
          exec (.luma m) s = .next t1 ∧ exec .thresh t1 = .next t2 ∧ exec .classify t2 = .next t3 ∧
            exec .parse t3 = .next t4 ∧ exec .score t4 = .next t ∧ exec (.detect m) s = .next t)

/-- R164 (with R162): after `DETECT` the result registers hold exactly `detect(g)` of the grid scanned, and only the result
registers and `DONE` have changed. -/
def Obligations.DetectLeavesThePureResult : Prop :=
  ∀ (m : Space) (s : State), NoError s → ChannelsLegal s m → ImageFits s m →
    ∃ t : State, exec (.detect m) s = .next t ∧
      t.regs.result =
          detect { h := s.regs.imgH.toNat, w := s.regs.imgW.toNat, px := fun r c => BitVec.ofNat 8 (sampleOf s m r c) } ∧
        t = { s with
              regs := { s.regs with
                        nblk := t.regs.nblk, sum := t.regs.sum, thr2 := t.regs.thr2, rpayload := t.regs.rpayload,
                        rdev := t.regs.rdev, rdevLen := t.regs.rdevLen, rses := t.regs.rses, rsesLen := t.regs.rsesLen,
                        conf := t.regs.conf, found := t.regs.found, done := true } }

/-- R191: `SRST` runs in every state, `ERR` set or not: every register at its reset value, memories kept; a word with its `OP`
and other low bits raises `E_RSVD` while `ERR` is 0 and is dropped while `ERR` is 1. -/
def Obligations.SrstResetsTheRegisters : Prop :=
  encode .srst = 0xFF000000#32 ∧ ReservedWordRaises 0xFF 1 ∧
    (∀ s : State, ∃ r : Regs, exec .srst s = .next { s with regs := r } ∧ (∀ q : Reg, r.read q = regResetWord q) ∧
      r.done = false ∧ r.err = false ∧ r.found = false) ∧
    ∀ (s : State) (w : Word) (rest : List HostOp), s.pending = .regWrite 0x000 w :: rest → s.regs.err = true →
      w.toNat / 2 ^ 24 = 0xFF → 1 ≤ w.toNat % 2 ^ 24 → step s = .next { s with pending := rest }

/-! ### Registers and host operations (10_state.md, 20_memory.md, 70_reset_and_hazards.md) -/

/-- R47: every register's value right after reset; and no byte of either memory is listed, which is the model's form of memory
whose contents are unspecified (log entries 1 and 2, DESIGN CHOICE). -/
def Obligations.ResetRegisterValues : Prop :=
  (∀ q : Reg, State.reset.regs.read q = regResetWord q) ∧ ∀ (m : Space) (a : Nat), (State.reset.mem m).get? a = none

/-- R230: the host operation `Reset`, from any state. That the parameters and the host's remaining operations are kept is read
from R21 and R22 (log entry 13, DEDUCED), and that unspecified memory lists nothing is the model's form (log entries 1 and 2). -/
def Obligations.HardwareResetFromAnyState : Prop :=
  ∀ (s : State) (rest : List HostOp), s.pending = .reset :: rest → ∃ t : State, step s = .next t ∧
    (∀ q : Reg, t.regs.read q = regResetWord q) ∧ t.regs.irq = false ∧ (∀ (m : Space) (a : Nat), (t.mem m).get? a = none) ∧
      t.cfg = s.cfg ∧ t.pending = rest

/-- R24, R62, R63: the register map is one to one, and the offsets that hold a register are exactly those that R63 does not
exclude. -/
def Obligations.RegisterMapIsOneToOne : Prop :=
  (∀ r : Reg, regAt (regOffset r) = some r) ∧ (∀ (off : Nat) (r : Reg), regAt off = some r → regOffset r = off) ∧
    ∀ off : Nat, (regAt off).isSome = regOffsetWf off

/-- R23, R24 (access RW): a write of a read-write register stores the defined bits of the value; every other register reads as
before; memories and all else are unchanged. -/
def Obligations.RegisterWriteReadsBack : Prop :=
  ∀ (s : State) (q : Reg) (v : Word) (rest : List HostOp), regAccess q = .rw →
    s.pending = .regWrite (regOffset q) v :: rest →
      ∃ r : Regs, step s = .next { s with regs := r, pending := rest } ∧ r.read q = v &&& regBits q ∧
        ∀ p : Reg, p ≠ q → r.read p = s.regs.read p

/-- R23: "A write to a read-only register (RO) changes nothing." -/
def Obligations.ReadOnlyWritesChangeNothing : Prop :=
  ∀ (s : State) (q : Reg) (v : Word) (rest : List HostOp), regAccess q = .ro →
    s.pending = .regWrite (regOffset q) v :: rest → step s = .next { s with pending := rest }

/-- R23: a read returns the register's value and changes nothing else; bits that the map does not define read 0, and so does
all of `CMD`. That the reply is recorded newest first is the model's choice (log entry 6). -/
def Obligations.RegisterReadsAreHarmless : Prop :=
  (∀ (s : State) (q : Reg) (rest : List HostOp), s.pending = .regRead (regOffset q) :: rest →
      step s = .next { s with pending := rest, replies := .word (s.regs.read q) :: s.replies }) ∧
    ∀ (r : Regs) (q : Reg), r.read q &&& ~~~regBits q = 0#32

/-- R26, R207: a write of `STATUS` clears the bits written as 1 and nothing else, `ERRCODE` and `ERRCMD` kept; what `STATUS`
reads as. -/
def Obligations.StatusIsWriteOneToClear : Prop :=
  (∀ (s : State) (v : Word) (rest : List HostOp), s.pending = .regWrite 0x004 v :: rest →
      step s =
        .next { s with
                pending := rest
                regs := { s.regs with done := s.regs.done && !v.getLsbD 1, err := s.regs.err && !v.getLsbD 2 } }) ∧
    ∀ r : Regs, (r.read .status).toNat = 4 * r.err.toNat + 2 * r.done.toNat

/-- R212: the interrupt output, as `IrqSample` returns it, is the stated function of the state; sampling changes nothing, and
it is 0 after reset. That sampling changes nothing is R61; that the reply is recorded newest first is the model's choice (log
entry 6). -/
def Obligations.InterruptLevel : Prop :=
  (∀ (s : State) (rest : List HostOp), s.pending = .irqSample :: rest →
      step s =
        .next { s with
                pending := rest
                replies :=
                  .level ((s.regs.done && s.regs.doneIE) || (s.regs.err && s.regs.errIE)) :: s.replies }) ∧
    State.reset.regs.read .ie = 0#32 ∧ State.reset.regs.irq = false

/-- R103: the 256-bit sequence of a payload, low bit of each byte first. And (R25, R35) bit `i` of word `j` of `PAYLOAD`, as the host reads it, is element `32*j + i` of the payload's bit sequence;
the same for `RPAYLOAD`. -/
def Obligations.PayloadWordsAreTheBitSequence : Prop :=
  (∀ p : Vector Byte 32, (payloadToBits p).length = 256 ∧
      ∀ (k : Nat) (h : k < 256), (payloadToBits p)[k]? = some (p[k / 8].getLsbD (k % 8))) ∧
    ∀ (r : Regs) (j : Fin 8) (i : Nat), i < 32 →
    (payloadToBits r.payload)[32 * j.val + i]? = some ((r.read (.payload j)).getLsbD i) ∧
      (payloadToBits r.rpayload)[32 * j.val + i]? = some ((r.read (.rpayload j)).getLsbD i)

/-- R61, R64, R69: the four memory operations of the host, inside the installed size: a write is seen by every later read of that
byte and of no other; a read returns the byte; nothing else changes. That the reply is recorded newest first is the model's
choice (log entry 6), and so is the canonical form that the writes take as a premise (log entry 1). -/
def Obligations.HostMemoryAccess : Prop :=
  (∀ (s : State) (a : Nat) (b : Byte) (rest : List HostOp), s.src.wf → a < s.cfg.srcSize →
      s.pending = .srcWrite a b :: rest → ∃ t : State, step s = .next t ∧ t = { s with src := t.src, pending := rest } ∧
        ∀ x : Nat, t.readByte .src x = if x = a then b else s.readByte .src x) ∧
    (∀ (s : State) (a : Nat) (b : Byte) (rest : List HostOp), s.dst.wf → a < s.cfg.dstSize →
      s.pending = .dstWrite a b :: rest → ∃ t : State, step s = .next t ∧ t = { s with dst := t.dst, pending := rest } ∧
        ∀ x : Nat, t.readByte .dst x = if x = a then b else s.readByte .dst x) ∧
    (∀ (s : State) (a : Nat) (rest : List HostOp), a < s.cfg.srcSize → s.pending = .srcRead a :: rest →
      step s = .next { s with pending := rest, replies := .byte (s.readByte .src a) :: s.replies }) ∧
    ∀ (s : State) (a : Nat) (rest : List HostOp), a < s.cfg.dstSize → s.pending = .dstRead a :: rest →
      step s = .next { s with pending := rest, replies := .byte (s.readByte .dst a) :: s.replies }

/-- R62, R63, R64: a step is refused exactly when its host operation is one of those given no meaning, and answers a next state
otherwise; no step faults. That the refusal comes at the operation, not before the program, is the model's choice (log
entry 7). -/
def Obligations.StepRefusesExactlyIllFormedAccess : Prop :=
  ∀ (s : State) (op : HostOp) (rest : List HostOp), s.pending = op :: rest →
    ((∃ r, step s = .refused r) ↔ op.wf s.cfg = false) ∧ ((∃ t, step s = .next t) ↔ op.wf s.cfg = true)

/-- R240 with R63, R64: a list of host operations none of which is without a meaning runs to its end from every state, one step
each: "every command ends". -/
def Obligations.WellFormedProgramsRunToTheEnd : Prop :=
  ∀ s : State, PendingWf s → ∃ t : State, Host.Core.run Sys2Proof.core s.pending.length s = .next t ∧ t.pending = []

/-! ### The codec's functions (40_codec.md) -/

/-- R105: the two mappings are inverse to one another; short sequences come back with their tail of zeros. -/
def Obligations.BitMappingsAreInverse : Prop :=
  (∀ p : Vector Byte 32, ∃ h : (payloadToBits p).length ≤ 256, bitsToPayload (payloadToBits p) h = p) ∧
    ∀ (b : List Bool) (h : b.length ≤ 256),
      payloadToBits (bitsToPayload b h) = b ++ List.replicate (256 - b.length) false

/-- R106: `strip_zeros(x)` is the longest prefix of `x` that does not end in a zero byte. -/
def Obligations.StripZerosIsTheLongestPrefix : Prop :=
  ∀ x : List Byte, (∃ n : Nat, x = stripZeros x ++ List.replicate n 0#8) ∧ (stripZeros x).getLast? ≠ some 0#8

/-- R101, R107: the table of well-formed sequences is exactly the encoding of single scalar values: a sequence starts at an
index when, and only when, the bytes there are the encoding of some scalar value, and `wf_len` is its length. -/
def Obligations.WfLenRecognisesEncodedScalars : Prop :=
  (∀ (x : List Byte) (i : Nat) (c : Char), utf8encChar c <+: x.drop i → wfLen x i = (utf8encChar c).length) ∧
    ∀ (x : List Byte) (i : Nat), 0 < wfLen x i →
      ∃ c : Char, utf8encChar c <+: x.drop i ∧ (utf8encChar c).length = wfLen x i

/-- R108: `utf8_filter` copies a well-formed sequence and goes on after it, and drops any other byte; its result is well-formed
UTF-8 and no longer than its input; and it keeps a string that is already well formed. -/
def Obligations.Utf8FilterKeepsWellFormedSequences : Prop :=
  utf8Filter [] = [] ∧
    (∀ (b : Byte) (x : List Byte),
      utf8Filter (b :: x) =
        if 0 < wfLen (b :: x) 0 then
          (b :: x).take (wfLen (b :: x) 0) ++ utf8Filter ((b :: x).drop (wfLen (b :: x) 0))
        else utf8Filter x) ∧
    (∀ x : List Byte, IsUtf8 (utf8Filter x) ∧ (utf8Filter x).length ≤ x.length) ∧
      ∀ s : List Char, utf8Filter (utf8enc s) = utf8enc s

/-- R109: the definition; both parsed identifiers have at most 16 bytes, and each is the encoding of exactly one string. -/
def Obligations.ParsedIdentifiersAreStrings : Prop :=
  ∀ p : Vector Byte 32,
    parseIdentifiers p = (utf8Filter (stripZeros (p.toList.take 16)), utf8Filter (stripZeros (p.toList.drop 16))) ∧
    (parseIdentifiers p).1.length ≤ 16 ∧ (parseIdentifiers p).2.length ≤ 16 ∧
      (∃ s : List Char, utf8enc s = (parseIdentifiers p).1 ∧ ∀ s' : List Char, utf8enc s' = (parseIdentifiers p).1 → s' = s) ∧
        ∃ s : List Char, utf8enc s = (parseIdentifiers p).2 ∧ ∀ s' : List Char, utf8enc s' = (parseIdentifiers p).2 → s' = s

/-- R114: what survives the payload. An identifier of at most 16 bytes that is well-formed UTF-8 and does not end in a zero byte
comes back; in general its first 16 bytes come back, stripped and filtered; the halves do not affect each other. -/
def Obligations.IdentifiersSurviveThePayload : Prop :=
  (∀ d s : List Byte,
      parseIdentifiers (buildPayload d s) =
        (utf8Filter (stripZeros (d.take 16)), utf8Filter (stripZeros (s.take 16)))) ∧
    ∀ d : List Byte, d.length ≤ 16 → IsUtf8 d → d.getLast? ≠ some 0#8 → utf8Filter (stripZeros (d.take 16)) = d

/-- R112: `hex` gives 64 characters, two for each byte in order, high digit first, letters in lower case. -/
def Obligations.HexHasTwoDigitsPerByte : Prop :=
  ∀ p : Vector Byte 32, (hex p).length = 64 ∧ ∀ (j : Nat) (h : j < 32),
    (hex p)[2 * j]? =
        ['0', '1', '2', '3', '4', '5', '6', '7', '8', '9', 'a', 'b', 'c', 'd', 'e', 'f'][p[j].toNat / 16]? ∧
      (hex p)[2 * j + 1]? =
        ['0', '1', '2', '3', '4', '5', '6', '7', '8', '9', 'a', 'b', 'c', 'd', 'e', 'f'][p[j].toNat % 16]?

/-! ### The embedder's functions (41_embedder.md) -/

/-- R139: for every strength other than 0, `embed_sample` is the document's sum, clip and rounding computed exactly over the
rationals, for each of the three roundings. -/
def Obligations.EmbedSampleIsExact : Prop :=
  ∀ (x : Byte) (b : Bool) (S : BitVec 16), S ≠ 0#16 →
    let s : ℚ := (S.toNat : ℚ) / 256
    let v : ℚ := min (max (if b then (x.toNat : ℚ) + s else (x.toNat : ℚ) - s) 0) 255
    ((embedSample .halfUp x (some b) S).toNat : ℤ) = ⌊v + 1 / 2⌋ ∧
      ((embedSample .truncate x (some b) S).toNat : ℤ) = ⌊v⌋ ∧
        |v - ((embedSample .halfEven x (some b) S).toNat : ℚ)| ≤ 1 / 2 ∧
          (|v - ((embedSample .halfEven x (some b) S).toNat : ℚ)| = 1 / 2 →
            (embedSample .halfEven x (some b) S).toNat % 2 = 0)

/-- R135: at an integer strength the three roundings agree and give the clipped sum; and a pixel in no block is copied at every
strength and under every rounding. -/
def Obligations.IntegerStrengthNeedsNoRounding : Prop :=
  (∀ (rnd : Rnd) (x : Byte) (S : BitVec 16), S.toNat % 256 = 0 →
      (embedSample rnd x (some true) S).toNat = min (x.toNat + S.toNat / 256) 255 ∧
        (embedSample rnd x (some false) S).toNat = x.toNat - S.toNat / 256) ∧
    ∀ (rnd : Rnd) (x : Byte) (S : BitVec 16), embedSample rnd x none S = x

/-- R140: at an integer strength `n`, a block whose samples all lie in `n..255 - n` has its sum moved by exactly `64*n`, up for
a 1 and down for a 0. -/
def Obligations.EmbedMovesBlockSums : Prop :=
  ∀ (s : State) (n k : Nat), NoError s → ChannelsLegal s .src → ImageFits s .src → ImageFits s .dst → 0 < n →
    s.regs.strength.toNat = 256 * n → k < blockCount s →
    (∀ i j : Nat, i < 8 → j < 8 →
      n ≤ sampleOf s .src (8 * (k / (s.regs.imgW.toNat / 8)) + i) (8 * (k % (s.regs.imgW.toNat / 8)) + j) ∧
        sampleOf s .src (8 * (k / (s.regs.imgW.toNat / 8)) + i) (8 * (k % (s.regs.imgW.toNat / 8)) + j) + n ≤ 255) →
    ∃ t : State, exec .embed s = .next t ∧
      ((payloadToBits s.regs.payload)[k % 256]? = some true → blockSumOf t .dst k = blockSumOf s .src k + 64 * n) ∧
        ((payloadToBits s.regs.payload)[k % 256]? = some false → blockSumOf t .dst k + 64 * n = blockSumOf s .src k)

/-- R137, corner cases: an image with no complete block is copied, reduced to one channel, whatever the strength and the
payload. -/
def Obligations.SmallImagesAreCopied : Prop :=
  ∀ s : State, NoError s → ChannelsLegal s .src → ImageFits s .src → ImageFits s .dst → s.regs.strength ≠ 0#16 →
    s.regs.imgH.toNat < 8 ∨ s.regs.imgW.toNat < 8 →
    ∃ t : State, exec .embed s = .next t ∧ ∀ r c : Nat, r < s.regs.imgH.toNat → c < s.regs.imgW.toNat →
      (t.readByte .dst (r * s.regs.imgW.toNat + c)).toNat = sampleOf s .src r c

/-- R137, corner cases: `EMBED` does not read DST, so that embedding twice in a row writes the same bytes as embedding once. -/
def Obligations.EmbeddingTwiceIsEmbeddingOnce : Prop :=
  ∀ s : State, NoError s → ChannelsLegal s .src → ImageFits s .src → ImageFits s .dst → s.regs.strength ≠ 0#16 →
    ∃ t u : State, exec .embed s = .next t ∧ exec .embed t = .next u ∧ u.regs = t.regs ∧ u.src = t.src ∧
      ∀ a : Nat, u.readByte .dst a = t.readByte .dst a

/-! ### The detector's functions (42_detector.md) -/

/-- R154: `median2(x)` is read off any non-decreasing arrangement of `x`: twice the middle element, or the sum of the two middle
elements, or 0 for no elements; of block sums it is at most 32640. -/
def Obligations.MedianOfAnySortedArrangement : Prop :=
  ∀ x y : List Nat, y.Perm x → y.Pairwise (· ≤ ·) →
    (y.length = 0 → median2 x = 0) ∧
      (y.length % 2 = 1 → median2 x = 2 * y[(y.length - 1) / 2]?.getD 0) ∧
        (y.length % 2 = 0 → 0 < y.length →
          median2 x = y[y.length / 2 - 1]?.getD 0 + y[y.length / 2]?.getD 0) ∧
          ((∀ v ∈ x, v ≤ 16320) → median2 x ≤ 32640)

/-- R159: the confidence numerator of 256 bits is the number of bits equal to the majority, 128 to 256, and 256 exactly when all the bits are equal. -/
def Obligations.ConfidenceRange : Prop :=
  ∀ b : List Bool, b.length = 256 →
    confidenceNum b = max (b.count true) (256 - b.count true) ∧ 128 ≤ confidenceNum b ∧ confidenceNum b ≤ 256 ∧
      (confidenceNum b = 256 ↔ b = List.replicate 256 true ∨ b = List.replicate 256 false)

/-- R163, corner cases: a scanned image with no complete block. -/
def Obligations.DegenerateImageIsNotFound : Prop :=
  ∀ (m : Space) (s : State), NoError s → ChannelsLegal s m → ImageFits s m →
    s.regs.imgH.toNat < 8 ∨ s.regs.imgW.toNat < 8 →
    ∃ t : State, exec (.detect m) s = .next t ∧ t.regs.nblk = 0#9 ∧ t.regs.thr2 = 0#15 ∧
      t.regs.rpayload = Vector.replicate 32 0#8 ∧ t.regs.rdevLen = 0#5 ∧ t.regs.rsesLen = 0#5 ∧ t.regs.conf = 256#9 ∧
        t.regs.found = false

/-- R166: the exact round trip on a uniform grid with at least 256 blocks, for every payload and every integer strength that
does not clip. -/
def Obligations.UniformRoundTrip : Prop :=
  ∀ (s : State) (x n : Nat), NoError s → ChannelsLegal s .src → ImageFits s .src → ImageFits s .dst → 256 ≤ blockCount s →
    (∀ r c : Nat, r < s.regs.imgH.toNat → c < s.regs.imgW.toNat → sampleOf s .src r c = x) →
    1 ≤ n → s.regs.strength.toNat = 256 * n → n ≤ x → x + n ≤ 255 →
    ∃ t u : State, exec .embed s = .next t ∧ exec (.detect .dst) t = .next u ∧
      (∀ (k : Nat) (h : k < 256), u.regs.sum[k].toNat =
        if (payloadToBits s.regs.payload)[k]? = some true then 64 * (x + n) else 64 * (x - n)) ∧
      (onesBelow s.regs.payload 256 ≤ 127 →
        u.regs.thr2.toNat = 128 * (x - n) ∧ u.regs.rpayload = s.regs.payload ∧
          u.regs.conf.toNat = 256 - onesBelow s.regs.payload 256 ∧
            (u.regs.found = true ↔ (parseIdentifiers s.regs.payload).1 ≠ [])) ∧
      (onesBelow s.regs.payload 256 = 128 →
        u.regs.thr2.toNat = 128 * x ∧ u.regs.rpayload = s.regs.payload ∧ u.regs.conf = 128#9 ∧ u.regs.found = false) ∧
      (129 ≤ onesBelow s.regs.payload 256 →
        u.regs.thr2.toNat = 128 * (x + n) ∧ u.regs.rpayload = Vector.replicate 32 0#8)

/-- R167: on a uniform grid with fewer than 256 blocks the payload's first bits, one for each block, come back exactly when at
most half of them are ones, and every later bit is decoded as 0. -/
def Obligations.SmallUniformRoundTrip : Prop :=
  ∀ (s : State) (x n : Nat), NoError s → ChannelsLegal s .src → ImageFits s .src → ImageFits s .dst → blockCount s < 256 →
    (∀ r c : Nat, r < s.regs.imgH.toNat → c < s.regs.imgW.toNat → sampleOf s .src r c = x) →
    1 ≤ n → s.regs.strength.toNat = 256 * n → n ≤ x → x + n ≤ 255 →
    ∃ t u : State, exec .embed s = .next t ∧ exec (.detect .dst) t = .next u ∧
      ((∀ k : Nat, k < blockCount s →
          (payloadToBits u.regs.rpayload)[k]? = (payloadToBits s.regs.payload)[k]?) ↔
        2 * onesBelow s.regs.payload (blockCount s) ≤ blockCount s) ∧
        ∀ k : Nat, blockCount s ≤ k → k < 256 → (payloadToBits u.regs.rpayload)[k]? = some false

/-- R150, R152: only the pixels of the scanned blocks influence the block sums: two states with the same register file whose
grids agree on the first 256 blocks give the same registers. -/
def Obligations.LumaReadsOnlyScannedBlocks : Prop :=
  ∀ (m : Space) (s s' : State), s'.regs = s.regs → NoError s → ChannelsLegal s m → ImageFits s m → ImageFits s' m →
    (∀ r c : Nat, r < 8 * (s.regs.imgH.toNat / 8) → c < 8 * (s.regs.imgW.toNat / 8) →
      r / 8 * (s.regs.imgW.toNat / 8) + c / 8 < 256 → sampleOf s' m r c = sampleOf s m r c) →
    ∃ t t' : State, exec (.luma m) s = .next t ∧ exec (.luma m) s' = .next t' ∧ t'.regs = t.regs

/-- R48 (the row of `DETECT`), R233: "Detection needs no payload and no strength": two states that agree on the image, and differ
in anything else, give the same detection result. -/
def Obligations.DetectionIsIndependentOfTheEmbedder : Prop :=
  ∀ (m : Space) (s s' : State), NoError s → NoError s' → ChannelsLegal s m → ImageFits s m →
    s'.regs.imgH = s.regs.imgH → s'.regs.imgW = s.regs.imgW → s'.regs.imgC = s.regs.imgC → s'.cfg = s.cfg →
    s'.resets = s.resets → s'.mem m = s.mem m →
    ∃ t t' : State, exec (.detect m) s = .next t ∧ exec (.detect m) s' = .next t' ∧ t'.regs.result = t.regs.result ∧
      t'.regs.nblk = t.regs.nblk ∧ t'.regs.sum = t.regs.sum ∧ t'.regs.thr2 = t.regs.thr2

/-! ### The whole machine -/

/-- R24, R48 and 90_conflicts.md C8: no step writes `PAYLOAD` but `BUILD`, `SRST`, a host write of one of its words, and
hardware reset. -/
def Obligations.OnlyTheseWriteThePayload : Prop :=
  ∀ s t : State, step s = .next t → t.regs.payload ≠ s.regs.payload →
    ∃ rest : List HostOp,
      s.pending = .regWrite 0x000 0x01000000#32 :: rest ∨ s.pending = .regWrite 0x000 0xFF000000#32 :: rest ∨
        s.pending = .reset :: rest ∨
          ∃ (j : Nat) (v : Word), j < 8 ∧ s.pending = .regWrite (0x060 + 4 * j) v :: rest

/-- R45: SRC is "Written by no command": only `SrcWrite` and hardware reset change it; and DST only `EMBED`, `DstWrite` and
hardware reset. -/
def Obligations.OnlyTheseWriteTheMemories : Prop :=
  ∀ s t : State, step s = .next t →
    (t.src ≠ s.src → ∃ rest : List HostOp,
      s.pending = .reset :: rest ∨ ∃ (a : Nat) (b : Byte), s.pending = .srcWrite a b :: rest) ∧
      (t.dst ≠ s.dst → ∃ rest : List HostOp,
        s.pending = .reset :: rest ∨ s.pending = .regWrite 0x000 0x02000000#32 :: rest ∨
          ∃ (a : Nat) (b : Byte), s.pending = .dstWrite a b :: rest)

/-- The invariant of every step, from every state that meets it: both memories canonical and inside their sizes (R60, R64);
`ERRCODE` at most 5 (R28, U13); `NBLK`, `SUM`, `THR2`, `CONF` in the ranges of R37 to R39 and R43; the decoded identifiers
well-formed UTF-8, at most 16 bytes, zero above their length (R41, R42). -/
def Obligations.StepKeepsInvariant : Prop :=
  ∀ s t : State, StateInv s → step s = .next t → StateInv t

/-- The invariant holds right after reset. -/
def Obligations.ResetMeetsInvariant : Prop := StateInv State.reset
end

