-- ==== Sys2Proof/Laws/State.lean ====
section
/-! SUPPORT. One lemma per field per update of State and of the register file, true by rfl, so that no proof unfolds a
record update. -/

namespace Sys2Proof.Machine

/-! ### State -/

@[simp] theorem State_withRegs_regs (s : State) (r : Regs) : (s.withRegs r).regs = r := rfl
@[simp] theorem State_withRegs_src (s : State) (r : Regs) : (s.withRegs r).src = s.src := rfl
@[simp] theorem State_withRegs_dst (s : State) (r : Regs) : (s.withRegs r).dst = s.dst := rfl
@[simp] theorem State_withRegs_cfg (s : State) (r : Regs) : (s.withRegs r).cfg = s.cfg := rfl
@[simp] theorem State_withRegs_resets (s : State) (r : Regs) : (s.withRegs r).resets = s.resets := rfl
@[simp] theorem State_withRegs_pending (s : State) (r : Regs) : (s.withRegs r).pending = s.pending := rfl
@[simp] theorem State_withRegs_replies (s : State) (r : Regs) : (s.withRegs r).replies = s.replies := rfl

@[simp] theorem State_writeSrc_regs (s : State) (a : Nat) (b : Byte) : (s.writeSrc a b).regs = s.regs := rfl
@[simp] theorem State_writeSrc_src (s : State) (a : Nat) (b : Byte) : (s.writeSrc a b).src = s.src.put a b := rfl
@[simp] theorem State_writeSrc_dst (s : State) (a : Nat) (b : Byte) : (s.writeSrc a b).dst = s.dst := rfl
@[simp] theorem State_writeSrc_cfg (s : State) (a : Nat) (b : Byte) : (s.writeSrc a b).cfg = s.cfg := rfl
@[simp] theorem State_writeSrc_resets (s : State) (a : Nat) (b : Byte) : (s.writeSrc a b).resets = s.resets := rfl
@[simp] theorem State_writeSrc_pending (s : State) (a : Nat) (b : Byte) : (s.writeSrc a b).pending = s.pending := rfl
@[simp] theorem State_writeSrc_replies (s : State) (a : Nat) (b : Byte) : (s.writeSrc a b).replies = s.replies := rfl

@[simp] theorem State_writeDst_regs (s : State) (a : Nat) (b : Byte) : (s.writeDst a b).regs = s.regs := rfl
@[simp] theorem State_writeDst_src (s : State) (a : Nat) (b : Byte) : (s.writeDst a b).src = s.src := rfl
@[simp] theorem State_writeDst_dst (s : State) (a : Nat) (b : Byte) : (s.writeDst a b).dst = s.dst.put a b := rfl
@[simp] theorem State_writeDst_cfg (s : State) (a : Nat) (b : Byte) : (s.writeDst a b).cfg = s.cfg := rfl
@[simp] theorem State_writeDst_resets (s : State) (a : Nat) (b : Byte) : (s.writeDst a b).resets = s.resets := rfl
@[simp] theorem State_writeDst_pending (s : State) (a : Nat) (b : Byte) : (s.writeDst a b).pending = s.pending := rfl
@[simp] theorem State_writeDst_replies (s : State) (a : Nat) (b : Byte) : (s.writeDst a b).replies = s.replies := rfl

@[simp] theorem State_storeDst_regs (s : State) (bs : List Byte) : (s.storeDst bs).regs = s.regs := rfl
@[simp] theorem State_storeDst_src (s : State) (bs : List Byte) : (s.storeDst bs).src = s.src := rfl
@[simp] theorem State_storeDst_dst (s : State) (bs : List Byte) : (s.storeDst bs).dst = s.dst.storeRun 0 bs := rfl
@[simp] theorem State_storeDst_cfg (s : State) (bs : List Byte) : (s.storeDst bs).cfg = s.cfg := rfl
@[simp] theorem State_storeDst_resets (s : State) (bs : List Byte) : (s.storeDst bs).resets = s.resets := rfl
@[simp] theorem State_storeDst_pending (s : State) (bs : List Byte) : (s.storeDst bs).pending = s.pending := rfl
@[simp] theorem State_storeDst_replies (s : State) (bs : List Byte) : (s.storeDst bs).replies = s.replies := rfl

@[simp] theorem State_finish_regs (s : State) : (s.finish).regs = s.regs.complete := rfl
@[simp] theorem State_finish_src (s : State) : (s.finish).src = s.src := rfl
@[simp] theorem State_finish_dst (s : State) : (s.finish).dst = s.dst := rfl
@[simp] theorem State_finish_cfg (s : State) : (s.finish).cfg = s.cfg := rfl
@[simp] theorem State_finish_resets (s : State) : (s.finish).resets = s.resets := rfl
@[simp] theorem State_finish_pending (s : State) : (s.finish).pending = s.pending := rfl
@[simp] theorem State_finish_replies (s : State) : (s.finish).replies = s.replies := rfl

@[simp] theorem State_raise_regs (s : State) (e : Err) (w : Word) : (raise e w s).regs = s.regs.raise e w := rfl
@[simp] theorem State_raise_src (s : State) (e : Err) (w : Word) : (raise e w s).src = s.src := rfl
@[simp] theorem State_raise_dst (s : State) (e : Err) (w : Word) : (raise e w s).dst = s.dst := rfl
@[simp] theorem State_raise_cfg (s : State) (e : Err) (w : Word) : (raise e w s).cfg = s.cfg := rfl
@[simp] theorem State_raise_resets (s : State) (e : Err) (w : Word) : (raise e w s).resets = s.resets := rfl
@[simp] theorem State_raise_pending (s : State) (e : Err) (w : Word) : (raise e w s).pending = s.pending := rfl
@[simp] theorem State_raise_replies (s : State) (e : Err) (w : Word) : (raise e w s).replies = s.replies := rfl

@[simp] theorem State_reply_regs (s : State) (v : Reply) : (s.reply v).regs = s.regs := rfl
@[simp] theorem State_reply_src (s : State) (v : Reply) : (s.reply v).src = s.src := rfl
@[simp] theorem State_reply_dst (s : State) (v : Reply) : (s.reply v).dst = s.dst := rfl
@[simp] theorem State_reply_cfg (s : State) (v : Reply) : (s.reply v).cfg = s.cfg := rfl
@[simp] theorem State_reply_resets (s : State) (v : Reply) : (s.reply v).resets = s.resets := rfl
@[simp] theorem State_reply_pending (s : State) (v : Reply) : (s.reply v).pending = s.pending := rfl
@[simp] theorem State_reply_replies (s : State) (v : Reply) : (s.reply v).replies = v :: s.replies := rfl

@[simp] theorem State_hardwareReset_regs (s : State) : (s.hardwareReset).regs = Regs.reset := rfl
@[simp] theorem State_hardwareReset_src (s : State) : (s.hardwareReset).src = [] := rfl
@[simp] theorem State_hardwareReset_dst (s : State) : (s.hardwareReset).dst = [] := rfl
@[simp] theorem State_hardwareReset_cfg (s : State) : (s.hardwareReset).cfg = s.cfg := rfl
@[simp] theorem State_hardwareReset_resets (s : State) : (s.hardwareReset).resets = s.resets + 1 := rfl
@[simp] theorem State_hardwareReset_pending (s : State) : (s.hardwareReset).pending = s.pending := rfl
@[simp] theorem State_hardwareReset_replies (s : State) : (s.hardwareReset).replies = s.replies := rfl

@[simp] theorem State_withPending_regs (s : State) (p : List HostOp) : (s.withPending p).regs = s.regs := rfl
@[simp] theorem State_withPending_src (s : State) (p : List HostOp) : (s.withPending p).src = s.src := rfl
@[simp] theorem State_withPending_dst (s : State) (p : List HostOp) : (s.withPending p).dst = s.dst := rfl
@[simp] theorem State_withPending_cfg (s : State) (p : List HostOp) : (s.withPending p).cfg = s.cfg := rfl
@[simp] theorem State_withPending_resets (s : State) (p : List HostOp) : (s.withPending p).resets = s.resets := rfl
@[simp] theorem State_withPending_pending (s : State) (p : List HostOp) : (s.withPending p).pending = p := rfl
@[simp] theorem State_withPending_replies (s : State) (p : List HostOp) : (s.withPending p).replies = s.replies := rfl

/-! ### The register file -/

@[simp] theorem Regs_complete_done (r : Regs) : (r.complete).done = true := rfl
@[simp] theorem Regs_complete_err (r : Regs) : (r.complete).err = r.err := rfl
@[simp] theorem Regs_complete_doneIE (r : Regs) : (r.complete).doneIE = r.doneIE := rfl
@[simp] theorem Regs_complete_errIE (r : Regs) : (r.complete).errIE = r.errIE := rfl
@[simp] theorem Regs_complete_errCode (r : Regs) : (r.complete).errCode = r.errCode := rfl
@[simp] theorem Regs_complete_errCmd (r : Regs) : (r.complete).errCmd = r.errCmd := rfl
@[simp] theorem Regs_complete_imgH (r : Regs) : (r.complete).imgH = r.imgH := rfl
@[simp] theorem Regs_complete_imgW (r : Regs) : (r.complete).imgW = r.imgW := rfl
@[simp] theorem Regs_complete_imgC (r : Regs) : (r.complete).imgC = r.imgC := rfl
@[simp] theorem Regs_complete_strength (r : Regs) : (r.complete).strength = r.strength := rfl
@[simp] theorem Regs_complete_devLen (r : Regs) : (r.complete).devLen = r.devLen := rfl
@[simp] theorem Regs_complete_sesLen (r : Regs) : (r.complete).sesLen = r.sesLen := rfl
@[simp] theorem Regs_complete_devIn (r : Regs) : (r.complete).devIn = r.devIn := rfl
@[simp] theorem Regs_complete_sesIn (r : Regs) : (r.complete).sesIn = r.sesIn := rfl
@[simp] theorem Regs_complete_payload (r : Regs) : (r.complete).payload = r.payload := rfl
@[simp] theorem Regs_complete_rpayload (r : Regs) : (r.complete).rpayload = r.rpayload := rfl
@[simp] theorem Regs_complete_nblk (r : Regs) : (r.complete).nblk = r.nblk := rfl
@[simp] theorem Regs_complete_thr2 (r : Regs) : (r.complete).thr2 = r.thr2 := rfl
@[simp] theorem Regs_complete_conf (r : Regs) : (r.complete).conf = r.conf := rfl
@[simp] theorem Regs_complete_found (r : Regs) : (r.complete).found = r.found := rfl
@[simp] theorem Regs_complete_rdevLen (r : Regs) : (r.complete).rdevLen = r.rdevLen := rfl
@[simp] theorem Regs_complete_rsesLen (r : Regs) : (r.complete).rsesLen = r.rsesLen := rfl
@[simp] theorem Regs_complete_rdev (r : Regs) : (r.complete).rdev = r.rdev := rfl
@[simp] theorem Regs_complete_rses (r : Regs) : (r.complete).rses = r.rses := rfl
@[simp] theorem Regs_complete_sum (r : Regs) : (r.complete).sum = r.sum := rfl

@[simp] theorem Regs_withPayload_done (r : Regs) (p : Vector Byte 32) : (r.withPayload p).done = r.done := rfl
@[simp] theorem Regs_withPayload_err (r : Regs) (p : Vector Byte 32) : (r.withPayload p).err = r.err := rfl
@[simp] theorem Regs_withPayload_doneIE (r : Regs) (p : Vector Byte 32) : (r.withPayload p).doneIE = r.doneIE := rfl
@[simp] theorem Regs_withPayload_errIE (r : Regs) (p : Vector Byte 32) : (r.withPayload p).errIE = r.errIE := rfl
@[simp] theorem Regs_withPayload_errCode (r : Regs) (p : Vector Byte 32) : (r.withPayload p).errCode = r.errCode := rfl
@[simp] theorem Regs_withPayload_errCmd (r : Regs) (p : Vector Byte 32) : (r.withPayload p).errCmd = r.errCmd := rfl
@[simp] theorem Regs_withPayload_imgH (r : Regs) (p : Vector Byte 32) : (r.withPayload p).imgH = r.imgH := rfl
@[simp] theorem Regs_withPayload_imgW (r : Regs) (p : Vector Byte 32) : (r.withPayload p).imgW = r.imgW := rfl
@[simp] theorem Regs_withPayload_imgC (r : Regs) (p : Vector Byte 32) : (r.withPayload p).imgC = r.imgC := rfl
@[simp] theorem Regs_withPayload_strength (r : Regs) (p : Vector Byte 32) : (r.withPayload p).strength = r.strength := rfl
@[simp] theorem Regs_withPayload_devLen (r : Regs) (p : Vector Byte 32) : (r.withPayload p).devLen = r.devLen := rfl
@[simp] theorem Regs_withPayload_sesLen (r : Regs) (p : Vector Byte 32) : (r.withPayload p).sesLen = r.sesLen := rfl
@[simp] theorem Regs_withPayload_devIn (r : Regs) (p : Vector Byte 32) : (r.withPayload p).devIn = r.devIn := rfl
@[simp] theorem Regs_withPayload_sesIn (r : Regs) (p : Vector Byte 32) : (r.withPayload p).sesIn = r.sesIn := rfl
@[simp] theorem Regs_withPayload_payload (r : Regs) (p : Vector Byte 32) : (r.withPayload p).payload = p := rfl
@[simp] theorem Regs_withPayload_rpayload (r : Regs) (p : Vector Byte 32) : (r.withPayload p).rpayload = r.rpayload := rfl
@[simp] theorem Regs_withPayload_nblk (r : Regs) (p : Vector Byte 32) : (r.withPayload p).nblk = r.nblk := rfl
@[simp] theorem Regs_withPayload_thr2 (r : Regs) (p : Vector Byte 32) : (r.withPayload p).thr2 = r.thr2 := rfl
@[simp] theorem Regs_withPayload_conf (r : Regs) (p : Vector Byte 32) : (r.withPayload p).conf = r.conf := rfl
@[simp] theorem Regs_withPayload_found (r : Regs) (p : Vector Byte 32) : (r.withPayload p).found = r.found := rfl
@[simp] theorem Regs_withPayload_rdevLen (r : Regs) (p : Vector Byte 32) : (r.withPayload p).rdevLen = r.rdevLen := rfl
@[simp] theorem Regs_withPayload_rsesLen (r : Regs) (p : Vector Byte 32) : (r.withPayload p).rsesLen = r.rsesLen := rfl
@[simp] theorem Regs_withPayload_rdev (r : Regs) (p : Vector Byte 32) : (r.withPayload p).rdev = r.rdev := rfl
@[simp] theorem Regs_withPayload_rses (r : Regs) (p : Vector Byte 32) : (r.withPayload p).rses = r.rses := rfl
@[simp] theorem Regs_withPayload_sum (r : Regs) (p : Vector Byte 32) : (r.withPayload p).sum = r.sum := rfl

@[simp] theorem Regs_withSums_done (r : Regs) (n : BitVec 9) (x : Vector (BitVec 14) 256) : (r.withSums n x).done = r.done := rfl
@[simp] theorem Regs_withSums_err (r : Regs) (n : BitVec 9) (x : Vector (BitVec 14) 256) : (r.withSums n x).err = r.err := rfl
@[simp] theorem Regs_withSums_doneIE (r : Regs) (n : BitVec 9) (x : Vector (BitVec 14) 256) : (r.withSums n x).doneIE = r.doneIE := rfl
@[simp] theorem Regs_withSums_errIE (r : Regs) (n : BitVec 9) (x : Vector (BitVec 14) 256) : (r.withSums n x).errIE = r.errIE := rfl
@[simp] theorem Regs_withSums_errCode (r : Regs) (n : BitVec 9) (x : Vector (BitVec 14) 256) : (r.withSums n x).errCode = r.errCode := rfl
@[simp] theorem Regs_withSums_errCmd (r : Regs) (n : BitVec 9) (x : Vector (BitVec 14) 256) : (r.withSums n x).errCmd = r.errCmd := rfl
@[simp] theorem Regs_withSums_imgH (r : Regs) (n : BitVec 9) (x : Vector (BitVec 14) 256) : (r.withSums n x).imgH = r.imgH := rfl
@[simp] theorem Regs_withSums_imgW (r : Regs) (n : BitVec 9) (x : Vector (BitVec 14) 256) : (r.withSums n x).imgW = r.imgW := rfl
@[simp] theorem Regs_withSums_imgC (r : Regs) (n : BitVec 9) (x : Vector (BitVec 14) 256) : (r.withSums n x).imgC = r.imgC := rfl
@[simp] theorem Regs_withSums_strength (r : Regs) (n : BitVec 9) (x : Vector (BitVec 14) 256) : (r.withSums n x).strength = r.strength := rfl
@[simp] theorem Regs_withSums_devLen (r : Regs) (n : BitVec 9) (x : Vector (BitVec 14) 256) : (r.withSums n x).devLen = r.devLen := rfl
@[simp] theorem Regs_withSums_sesLen (r : Regs) (n : BitVec 9) (x : Vector (BitVec 14) 256) : (r.withSums n x).sesLen = r.sesLen := rfl
@[simp] theorem Regs_withSums_devIn (r : Regs) (n : BitVec 9) (x : Vector (BitVec 14) 256) : (r.withSums n x).devIn = r.devIn := rfl
@[simp] theorem Regs_withSums_sesIn (r : Regs) (n : BitVec 9) (x : Vector (BitVec 14) 256) : (r.withSums n x).sesIn = r.sesIn := rfl
@[simp] theorem Regs_withSums_payload (r : Regs) (n : BitVec 9) (x : Vector (BitVec 14) 256) : (r.withSums n x).payload = r.payload := rfl
@[simp] theorem Regs_withSums_rpayload (r : Regs) (n : BitVec 9) (x : Vector (BitVec 14) 256) : (r.withSums n x).rpayload = r.rpayload := rfl
@[simp] theorem Regs_withSums_nblk (r : Regs) (n : BitVec 9) (x : Vector (BitVec 14) 256) : (r.withSums n x).nblk = n := rfl
@[simp] theorem Regs_withSums_thr2 (r : Regs) (n : BitVec 9) (x : Vector (BitVec 14) 256) : (r.withSums n x).thr2 = r.thr2 := rfl
@[simp] theorem Regs_withSums_conf (r : Regs) (n : BitVec 9) (x : Vector (BitVec 14) 256) : (r.withSums n x).conf = r.conf := rfl
@[simp] theorem Regs_withSums_found (r : Regs) (n : BitVec 9) (x : Vector (BitVec 14) 256) : (r.withSums n x).found = r.found := rfl
@[simp] theorem Regs_withSums_rdevLen (r : Regs) (n : BitVec 9) (x : Vector (BitVec 14) 256) : (r.withSums n x).rdevLen = r.rdevLen := rfl
@[simp] theorem Regs_withSums_rsesLen (r : Regs) (n : BitVec 9) (x : Vector (BitVec 14) 256) : (r.withSums n x).rsesLen = r.rsesLen := rfl
@[simp] theorem Regs_withSums_rdev (r : Regs) (n : BitVec 9) (x : Vector (BitVec 14) 256) : (r.withSums n x).rdev = r.rdev := rfl
@[simp] theorem Regs_withSums_rses (r : Regs) (n : BitVec 9) (x : Vector (BitVec 14) 256) : (r.withSums n x).rses = r.rses := rfl
@[simp] theorem Regs_withSums_sum (r : Regs) (n : BitVec 9) (x : Vector (BitVec 14) 256) : (r.withSums n x).sum = x := rfl

@[simp] theorem Regs_withThr2_done (r : Regs) (t : BitVec 15) : (r.withThr2 t).done = r.done := rfl
@[simp] theorem Regs_withThr2_err (r : Regs) (t : BitVec 15) : (r.withThr2 t).err = r.err := rfl
@[simp] theorem Regs_withThr2_doneIE (r : Regs) (t : BitVec 15) : (r.withThr2 t).doneIE = r.doneIE := rfl
@[simp] theorem Regs_withThr2_errIE (r : Regs) (t : BitVec 15) : (r.withThr2 t).errIE = r.errIE := rfl
@[simp] theorem Regs_withThr2_errCode (r : Regs) (t : BitVec 15) : (r.withThr2 t).errCode = r.errCode := rfl
@[simp] theorem Regs_withThr2_errCmd (r : Regs) (t : BitVec 15) : (r.withThr2 t).errCmd = r.errCmd := rfl
@[simp] theorem Regs_withThr2_imgH (r : Regs) (t : BitVec 15) : (r.withThr2 t).imgH = r.imgH := rfl
@[simp] theorem Regs_withThr2_imgW (r : Regs) (t : BitVec 15) : (r.withThr2 t).imgW = r.imgW := rfl
@[simp] theorem Regs_withThr2_imgC (r : Regs) (t : BitVec 15) : (r.withThr2 t).imgC = r.imgC := rfl
@[simp] theorem Regs_withThr2_strength (r : Regs) (t : BitVec 15) : (r.withThr2 t).strength = r.strength := rfl
@[simp] theorem Regs_withThr2_devLen (r : Regs) (t : BitVec 15) : (r.withThr2 t).devLen = r.devLen := rfl
@[simp] theorem Regs_withThr2_sesLen (r : Regs) (t : BitVec 15) : (r.withThr2 t).sesLen = r.sesLen := rfl
@[simp] theorem Regs_withThr2_devIn (r : Regs) (t : BitVec 15) : (r.withThr2 t).devIn = r.devIn := rfl
@[simp] theorem Regs_withThr2_sesIn (r : Regs) (t : BitVec 15) : (r.withThr2 t).sesIn = r.sesIn := rfl
@[simp] theorem Regs_withThr2_payload (r : Regs) (t : BitVec 15) : (r.withThr2 t).payload = r.payload := rfl
@[simp] theorem Regs_withThr2_rpayload (r : Regs) (t : BitVec 15) : (r.withThr2 t).rpayload = r.rpayload := rfl
@[simp] theorem Regs_withThr2_nblk (r : Regs) (t : BitVec 15) : (r.withThr2 t).nblk = r.nblk := rfl
@[simp] theorem Regs_withThr2_thr2 (r : Regs) (t : BitVec 15) : (r.withThr2 t).thr2 = t := rfl
@[simp] theorem Regs_withThr2_conf (r : Regs) (t : BitVec 15) : (r.withThr2 t).conf = r.conf := rfl
@[simp] theorem Regs_withThr2_found (r : Regs) (t : BitVec 15) : (r.withThr2 t).found = r.found := rfl
@[simp] theorem Regs_withThr2_rdevLen (r : Regs) (t : BitVec 15) : (r.withThr2 t).rdevLen = r.rdevLen := rfl
@[simp] theorem Regs_withThr2_rsesLen (r : Regs) (t : BitVec 15) : (r.withThr2 t).rsesLen = r.rsesLen := rfl
@[simp] theorem Regs_withThr2_rdev (r : Regs) (t : BitVec 15) : (r.withThr2 t).rdev = r.rdev := rfl
@[simp] theorem Regs_withThr2_rses (r : Regs) (t : BitVec 15) : (r.withThr2 t).rses = r.rses := rfl
@[simp] theorem Regs_withThr2_sum (r : Regs) (t : BitVec 15) : (r.withThr2 t).sum = r.sum := rfl

@[simp] theorem Regs_withRpayload_done (r : Regs) (p : Vector Byte 32) : (r.withRpayload p).done = r.done := rfl
@[simp] theorem Regs_withRpayload_err (r : Regs) (p : Vector Byte 32) : (r.withRpayload p).err = r.err := rfl
@[simp] theorem Regs_withRpayload_doneIE (r : Regs) (p : Vector Byte 32) : (r.withRpayload p).doneIE = r.doneIE := rfl
@[simp] theorem Regs_withRpayload_errIE (r : Regs) (p : Vector Byte 32) : (r.withRpayload p).errIE = r.errIE := rfl
@[simp] theorem Regs_withRpayload_errCode (r : Regs) (p : Vector Byte 32) : (r.withRpayload p).errCode = r.errCode := rfl
@[simp] theorem Regs_withRpayload_errCmd (r : Regs) (p : Vector Byte 32) : (r.withRpayload p).errCmd = r.errCmd := rfl
@[simp] theorem Regs_withRpayload_imgH (r : Regs) (p : Vector Byte 32) : (r.withRpayload p).imgH = r.imgH := rfl
@[simp] theorem Regs_withRpayload_imgW (r : Regs) (p : Vector Byte 32) : (r.withRpayload p).imgW = r.imgW := rfl
@[simp] theorem Regs_withRpayload_imgC (r : Regs) (p : Vector Byte 32) : (r.withRpayload p).imgC = r.imgC := rfl
@[simp] theorem Regs_withRpayload_strength (r : Regs) (p : Vector Byte 32) : (r.withRpayload p).strength = r.strength := rfl
@[simp] theorem Regs_withRpayload_devLen (r : Regs) (p : Vector Byte 32) : (r.withRpayload p).devLen = r.devLen := rfl
@[simp] theorem Regs_withRpayload_sesLen (r : Regs) (p : Vector Byte 32) : (r.withRpayload p).sesLen = r.sesLen := rfl
@[simp] theorem Regs_withRpayload_devIn (r : Regs) (p : Vector Byte 32) : (r.withRpayload p).devIn = r.devIn := rfl
@[simp] theorem Regs_withRpayload_sesIn (r : Regs) (p : Vector Byte 32) : (r.withRpayload p).sesIn = r.sesIn := rfl
@[simp] theorem Regs_withRpayload_payload (r : Regs) (p : Vector Byte 32) : (r.withRpayload p).payload = r.payload := rfl
@[simp] theorem Regs_withRpayload_rpayload (r : Regs) (p : Vector Byte 32) : (r.withRpayload p).rpayload = p := rfl
@[simp] theorem Regs_withRpayload_nblk (r : Regs) (p : Vector Byte 32) : (r.withRpayload p).nblk = r.nblk := rfl
@[simp] theorem Regs_withRpayload_thr2 (r : Regs) (p : Vector Byte 32) : (r.withRpayload p).thr2 = r.thr2 := rfl
@[simp] theorem Regs_withRpayload_conf (r : Regs) (p : Vector Byte 32) : (r.withRpayload p).conf = r.conf := rfl
@[simp] theorem Regs_withRpayload_found (r : Regs) (p : Vector Byte 32) : (r.withRpayload p).found = r.found := rfl
@[simp] theorem Regs_withRpayload_rdevLen (r : Regs) (p : Vector Byte 32) : (r.withRpayload p).rdevLen = r.rdevLen := rfl
@[simp] theorem Regs_withRpayload_rsesLen (r : Regs) (p : Vector Byte 32) : (r.withRpayload p).rsesLen = r.rsesLen := rfl
@[simp] theorem Regs_withRpayload_rdev (r : Regs) (p : Vector Byte 32) : (r.withRpayload p).rdev = r.rdev := rfl
@[simp] theorem Regs_withRpayload_rses (r : Regs) (p : Vector Byte 32) : (r.withRpayload p).rses = r.rses := rfl
@[simp] theorem Regs_withRpayload_sum (r : Regs) (p : Vector Byte 32) : (r.withRpayload p).sum = r.sum := rfl

@[simp] theorem Regs_withParsed_done (r : Regs) (d : Vector Byte 16) (m : BitVec 5) (e : Vector Byte 16) (n : BitVec 5) : (r.withParsed d m e n).done = r.done := rfl
@[simp] theorem Regs_withParsed_err (r : Regs) (d : Vector Byte 16) (m : BitVec 5) (e : Vector Byte 16) (n : BitVec 5) : (r.withParsed d m e n).err = r.err := rfl
@[simp] theorem Regs_withParsed_doneIE (r : Regs) (d : Vector Byte 16) (m : BitVec 5) (e : Vector Byte 16) (n : BitVec 5) : (r.withParsed d m e n).doneIE = r.doneIE := rfl
@[simp] theorem Regs_withParsed_errIE (r : Regs) (d : Vector Byte 16) (m : BitVec 5) (e : Vector Byte 16) (n : BitVec 5) : (r.withParsed d m e n).errIE = r.errIE := rfl
@[simp] theorem Regs_withParsed_errCode (r : Regs) (d : Vector Byte 16) (m : BitVec 5) (e : Vector Byte 16) (n : BitVec 5) : (r.withParsed d m e n).errCode = r.errCode := rfl
@[simp] theorem Regs_withParsed_errCmd (r : Regs) (d : Vector Byte 16) (m : BitVec 5) (e : Vector Byte 16) (n : BitVec 5) : (r.withParsed d m e n).errCmd = r.errCmd := rfl
@[simp] theorem Regs_withParsed_imgH (r : Regs) (d : Vector Byte 16) (m : BitVec 5) (e : Vector Byte 16) (n : BitVec 5) : (r.withParsed d m e n).imgH = r.imgH := rfl
@[simp] theorem Regs_withParsed_imgW (r : Regs) (d : Vector Byte 16) (m : BitVec 5) (e : Vector Byte 16) (n : BitVec 5) : (r.withParsed d m e n).imgW = r.imgW := rfl
@[simp] theorem Regs_withParsed_imgC (r : Regs) (d : Vector Byte 16) (m : BitVec 5) (e : Vector Byte 16) (n : BitVec 5) : (r.withParsed d m e n).imgC = r.imgC := rfl
@[simp] theorem Regs_withParsed_strength (r : Regs) (d : Vector Byte 16) (m : BitVec 5) (e : Vector Byte 16) (n : BitVec 5) : (r.withParsed d m e n).strength = r.strength := rfl
@[simp] theorem Regs_withParsed_devLen (r : Regs) (d : Vector Byte 16) (m : BitVec 5) (e : Vector Byte 16) (n : BitVec 5) : (r.withParsed d m e n).devLen = r.devLen := rfl
@[simp] theorem Regs_withParsed_sesLen (r : Regs) (d : Vector Byte 16) (m : BitVec 5) (e : Vector Byte 16) (n : BitVec 5) : (r.withParsed d m e n).sesLen = r.sesLen := rfl
@[simp] theorem Regs_withParsed_devIn (r : Regs) (d : Vector Byte 16) (m : BitVec 5) (e : Vector Byte 16) (n : BitVec 5) : (r.withParsed d m e n).devIn = r.devIn := rfl
@[simp] theorem Regs_withParsed_sesIn (r : Regs) (d : Vector Byte 16) (m : BitVec 5) (e : Vector Byte 16) (n : BitVec 5) : (r.withParsed d m e n).sesIn = r.sesIn := rfl
@[simp] theorem Regs_withParsed_payload (r : Regs) (d : Vector Byte 16) (m : BitVec 5) (e : Vector Byte 16) (n : BitVec 5) : (r.withParsed d m e n).payload = r.payload := rfl
@[simp] theorem Regs_withParsed_rpayload (r : Regs) (d : Vector Byte 16) (m : BitVec 5) (e : Vector Byte 16) (n : BitVec 5) : (r.withParsed d m e n).rpayload = r.rpayload := rfl
@[simp] theorem Regs_withParsed_nblk (r : Regs) (d : Vector Byte 16) (m : BitVec 5) (e : Vector Byte 16) (n : BitVec 5) : (r.withParsed d m e n).nblk = r.nblk := rfl
@[simp] theorem Regs_withParsed_thr2 (r : Regs) (d : Vector Byte 16) (m : BitVec 5) (e : Vector Byte 16) (n : BitVec 5) : (r.withParsed d m e n).thr2 = r.thr2 := rfl
@[simp] theorem Regs_withParsed_conf (r : Regs) (d : Vector Byte 16) (m : BitVec 5) (e : Vector Byte 16) (n : BitVec 5) : (r.withParsed d m e n).conf = r.conf := rfl
@[simp] theorem Regs_withParsed_found (r : Regs) (d : Vector Byte 16) (m : BitVec 5) (e : Vector Byte 16) (n : BitVec 5) : (r.withParsed d m e n).found = r.found := rfl
@[simp] theorem Regs_withParsed_rdevLen (r : Regs) (d : Vector Byte 16) (m : BitVec 5) (e : Vector Byte 16) (n : BitVec 5) : (r.withParsed d m e n).rdevLen = m := rfl
@[simp] theorem Regs_withParsed_rsesLen (r : Regs) (d : Vector Byte 16) (m : BitVec 5) (e : Vector Byte 16) (n : BitVec 5) : (r.withParsed d m e n).rsesLen = n := rfl
@[simp] theorem Regs_withParsed_rdev (r : Regs) (d : Vector Byte 16) (m : BitVec 5) (e : Vector Byte 16) (n : BitVec 5) : (r.withParsed d m e n).rdev = d := rfl
@[simp] theorem Regs_withParsed_rses (r : Regs) (d : Vector Byte 16) (m : BitVec 5) (e : Vector Byte 16) (n : BitVec 5) : (r.withParsed d m e n).rses = e := rfl
@[simp] theorem Regs_withParsed_sum (r : Regs) (d : Vector Byte 16) (m : BitVec 5) (e : Vector Byte 16) (n : BitVec 5) : (r.withParsed d m e n).sum = r.sum := rfl

@[simp] theorem Regs_withScore_done (r : Regs) (c : BitVec 9) (f : Bool) : (r.withScore c f).done = r.done := rfl
@[simp] theorem Regs_withScore_err (r : Regs) (c : BitVec 9) (f : Bool) : (r.withScore c f).err = r.err := rfl
@[simp] theorem Regs_withScore_doneIE (r : Regs) (c : BitVec 9) (f : Bool) : (r.withScore c f).doneIE = r.doneIE := rfl
@[simp] theorem Regs_withScore_errIE (r : Regs) (c : BitVec 9) (f : Bool) : (r.withScore c f).errIE = r.errIE := rfl
@[simp] theorem Regs_withScore_errCode (r : Regs) (c : BitVec 9) (f : Bool) : (r.withScore c f).errCode = r.errCode := rfl
@[simp] theorem Regs_withScore_errCmd (r : Regs) (c : BitVec 9) (f : Bool) : (r.withScore c f).errCmd = r.errCmd := rfl
@[simp] theorem Regs_withScore_imgH (r : Regs) (c : BitVec 9) (f : Bool) : (r.withScore c f).imgH = r.imgH := rfl
@[simp] theorem Regs_withScore_imgW (r : Regs) (c : BitVec 9) (f : Bool) : (r.withScore c f).imgW = r.imgW := rfl
@[simp] theorem Regs_withScore_imgC (r : Regs) (c : BitVec 9) (f : Bool) : (r.withScore c f).imgC = r.imgC := rfl
@[simp] theorem Regs_withScore_strength (r : Regs) (c : BitVec 9) (f : Bool) : (r.withScore c f).strength = r.strength := rfl
@[simp] theorem Regs_withScore_devLen (r : Regs) (c : BitVec 9) (f : Bool) : (r.withScore c f).devLen = r.devLen := rfl
@[simp] theorem Regs_withScore_sesLen (r : Regs) (c : BitVec 9) (f : Bool) : (r.withScore c f).sesLen = r.sesLen := rfl
@[simp] theorem Regs_withScore_devIn (r : Regs) (c : BitVec 9) (f : Bool) : (r.withScore c f).devIn = r.devIn := rfl
@[simp] theorem Regs_withScore_sesIn (r : Regs) (c : BitVec 9) (f : Bool) : (r.withScore c f).sesIn = r.sesIn := rfl
@[simp] theorem Regs_withScore_payload (r : Regs) (c : BitVec 9) (f : Bool) : (r.withScore c f).payload = r.payload := rfl
@[simp] theorem Regs_withScore_rpayload (r : Regs) (c : BitVec 9) (f : Bool) : (r.withScore c f).rpayload = r.rpayload := rfl
@[simp] theorem Regs_withScore_nblk (r : Regs) (c : BitVec 9) (f : Bool) : (r.withScore c f).nblk = r.nblk := rfl
@[simp] theorem Regs_withScore_thr2 (r : Regs) (c : BitVec 9) (f : Bool) : (r.withScore c f).thr2 = r.thr2 := rfl
@[simp] theorem Regs_withScore_conf (r : Regs) (c : BitVec 9) (f : Bool) : (r.withScore c f).conf = c := rfl
@[simp] theorem Regs_withScore_found (r : Regs) (c : BitVec 9) (f : Bool) : (r.withScore c f).found = f := rfl
@[simp] theorem Regs_withScore_rdevLen (r : Regs) (c : BitVec 9) (f : Bool) : (r.withScore c f).rdevLen = r.rdevLen := rfl
@[simp] theorem Regs_withScore_rsesLen (r : Regs) (c : BitVec 9) (f : Bool) : (r.withScore c f).rsesLen = r.rsesLen := rfl
@[simp] theorem Regs_withScore_rdev (r : Regs) (c : BitVec 9) (f : Bool) : (r.withScore c f).rdev = r.rdev := rfl
@[simp] theorem Regs_withScore_rses (r : Regs) (c : BitVec 9) (f : Bool) : (r.withScore c f).rses = r.rses := rfl
@[simp] theorem Regs_withScore_sum (r : Regs) (c : BitVec 9) (f : Bool) : (r.withScore c f).sum = r.sum := rfl

@[simp] theorem Regs_raise_done (r : Regs) (e : Err) (w : Word) : (r.raise e w).done = r.done := rfl
@[simp] theorem Regs_raise_err (r : Regs) (e : Err) (w : Word) : (r.raise e w).err = true := rfl
@[simp] theorem Regs_raise_doneIE (r : Regs) (e : Err) (w : Word) : (r.raise e w).doneIE = r.doneIE := rfl
@[simp] theorem Regs_raise_errIE (r : Regs) (e : Err) (w : Word) : (r.raise e w).errIE = r.errIE := rfl
@[simp] theorem Regs_raise_errCode (r : Regs) (e : Err) (w : Word) : (r.raise e w).errCode = errCodeOf e := rfl
@[simp] theorem Regs_raise_errCmd (r : Regs) (e : Err) (w : Word) : (r.raise e w).errCmd = w := rfl
@[simp] theorem Regs_raise_imgH (r : Regs) (e : Err) (w : Word) : (r.raise e w).imgH = r.imgH := rfl
@[simp] theorem Regs_raise_imgW (r : Regs) (e : Err) (w : Word) : (r.raise e w).imgW = r.imgW := rfl
@[simp] theorem Regs_raise_imgC (r : Regs) (e : Err) (w : Word) : (r.raise e w).imgC = r.imgC := rfl
@[simp] theorem Regs_raise_strength (r : Regs) (e : Err) (w : Word) : (r.raise e w).strength = r.strength := rfl
@[simp] theorem Regs_raise_devLen (r : Regs) (e : Err) (w : Word) : (r.raise e w).devLen = r.devLen := rfl
@[simp] theorem Regs_raise_sesLen (r : Regs) (e : Err) (w : Word) : (r.raise e w).sesLen = r.sesLen := rfl
@[simp] theorem Regs_raise_devIn (r : Regs) (e : Err) (w : Word) : (r.raise e w).devIn = r.devIn := rfl
@[simp] theorem Regs_raise_sesIn (r : Regs) (e : Err) (w : Word) : (r.raise e w).sesIn = r.sesIn := rfl
@[simp] theorem Regs_raise_payload (r : Regs) (e : Err) (w : Word) : (r.raise e w).payload = r.payload := rfl
@[simp] theorem Regs_raise_rpayload (r : Regs) (e : Err) (w : Word) : (r.raise e w).rpayload = r.rpayload := rfl
@[simp] theorem Regs_raise_nblk (r : Regs) (e : Err) (w : Word) : (r.raise e w).nblk = r.nblk := rfl
@[simp] theorem Regs_raise_thr2 (r : Regs) (e : Err) (w : Word) : (r.raise e w).thr2 = r.thr2 := rfl
@[simp] theorem Regs_raise_conf (r : Regs) (e : Err) (w : Word) : (r.raise e w).conf = r.conf := rfl
@[simp] theorem Regs_raise_found (r : Regs) (e : Err) (w : Word) : (r.raise e w).found = r.found := rfl
@[simp] theorem Regs_raise_rdevLen (r : Regs) (e : Err) (w : Word) : (r.raise e w).rdevLen = r.rdevLen := rfl
@[simp] theorem Regs_raise_rsesLen (r : Regs) (e : Err) (w : Word) : (r.raise e w).rsesLen = r.rsesLen := rfl
@[simp] theorem Regs_raise_rdev (r : Regs) (e : Err) (w : Word) : (r.raise e w).rdev = r.rdev := rfl
@[simp] theorem Regs_raise_rses (r : Regs) (e : Err) (w : Word) : (r.raise e w).rses = r.rses := rfl
@[simp] theorem Regs_raise_sum (r : Regs) (e : Err) (w : Word) : (r.raise e w).sum = r.sum := rfl

@[simp] theorem Regs_ack_done (r : Regs) (v : Word) : (r.ack v).done = (r.done && !v.getLsbD 1) := rfl
@[simp] theorem Regs_ack_err (r : Regs) (v : Word) : (r.ack v).err = (r.err && !v.getLsbD 2) := rfl
@[simp] theorem Regs_ack_doneIE (r : Regs) (v : Word) : (r.ack v).doneIE = r.doneIE := rfl
@[simp] theorem Regs_ack_errIE (r : Regs) (v : Word) : (r.ack v).errIE = r.errIE := rfl
@[simp] theorem Regs_ack_errCode (r : Regs) (v : Word) : (r.ack v).errCode = r.errCode := rfl
@[simp] theorem Regs_ack_errCmd (r : Regs) (v : Word) : (r.ack v).errCmd = r.errCmd := rfl
@[simp] theorem Regs_ack_imgH (r : Regs) (v : Word) : (r.ack v).imgH = r.imgH := rfl
@[simp] theorem Regs_ack_imgW (r : Regs) (v : Word) : (r.ack v).imgW = r.imgW := rfl
@[simp] theorem Regs_ack_imgC (r : Regs) (v : Word) : (r.ack v).imgC = r.imgC := rfl
@[simp] theorem Regs_ack_strength (r : Regs) (v : Word) : (r.ack v).strength = r.strength := rfl
@[simp] theorem Regs_ack_devLen (r : Regs) (v : Word) : (r.ack v).devLen = r.devLen := rfl
@[simp] theorem Regs_ack_sesLen (r : Regs) (v : Word) : (r.ack v).sesLen = r.sesLen := rfl
@[simp] theorem Regs_ack_devIn (r : Regs) (v : Word) : (r.ack v).devIn = r.devIn := rfl
@[simp] theorem Regs_ack_sesIn (r : Regs) (v : Word) : (r.ack v).sesIn = r.sesIn := rfl
@[simp] theorem Regs_ack_payload (r : Regs) (v : Word) : (r.ack v).payload = r.payload := rfl
@[simp] theorem Regs_ack_rpayload (r : Regs) (v : Word) : (r.ack v).rpayload = r.rpayload := rfl
@[simp] theorem Regs_ack_nblk (r : Regs) (v : Word) : (r.ack v).nblk = r.nblk := rfl
@[simp] theorem Regs_ack_thr2 (r : Regs) (v : Word) : (r.ack v).thr2 = r.thr2 := rfl
@[simp] theorem Regs_ack_conf (r : Regs) (v : Word) : (r.ack v).conf = r.conf := rfl
@[simp] theorem Regs_ack_found (r : Regs) (v : Word) : (r.ack v).found = r.found := rfl
@[simp] theorem Regs_ack_rdevLen (r : Regs) (v : Word) : (r.ack v).rdevLen = r.rdevLen := rfl
@[simp] theorem Regs_ack_rsesLen (r : Regs) (v : Word) : (r.ack v).rsesLen = r.rsesLen := rfl
@[simp] theorem Regs_ack_rdev (r : Regs) (v : Word) : (r.ack v).rdev = r.rdev := rfl
@[simp] theorem Regs_ack_rses (r : Regs) (v : Word) : (r.ack v).rses = r.rses := rfl
@[simp] theorem Regs_ack_sum (r : Regs) (v : Word) : (r.ack v).sum = r.sum := rfl

@[simp] theorem Regs_writeIE_done (r : Regs) (v : Word) : (r.writeIE v).done = r.done := rfl
@[simp] theorem Regs_writeIE_err (r : Regs) (v : Word) : (r.writeIE v).err = r.err := rfl
@[simp] theorem Regs_writeIE_doneIE (r : Regs) (v : Word) : (r.writeIE v).doneIE = v.getLsbD 1 := rfl
@[simp] theorem Regs_writeIE_errIE (r : Regs) (v : Word) : (r.writeIE v).errIE = v.getLsbD 2 := rfl
@[simp] theorem Regs_writeIE_errCode (r : Regs) (v : Word) : (r.writeIE v).errCode = r.errCode := rfl
@[simp] theorem Regs_writeIE_errCmd (r : Regs) (v : Word) : (r.writeIE v).errCmd = r.errCmd := rfl
@[simp] theorem Regs_writeIE_imgH (r : Regs) (v : Word) : (r.writeIE v).imgH = r.imgH := rfl
@[simp] theorem Regs_writeIE_imgW (r : Regs) (v : Word) : (r.writeIE v).imgW = r.imgW := rfl
@[simp] theorem Regs_writeIE_imgC (r : Regs) (v : Word) : (r.writeIE v).imgC = r.imgC := rfl
@[simp] theorem Regs_writeIE_strength (r : Regs) (v : Word) : (r.writeIE v).strength = r.strength := rfl
@[simp] theorem Regs_writeIE_devLen (r : Regs) (v : Word) : (r.writeIE v).devLen = r.devLen := rfl
@[simp] theorem Regs_writeIE_sesLen (r : Regs) (v : Word) : (r.writeIE v).sesLen = r.sesLen := rfl
@[simp] theorem Regs_writeIE_devIn (r : Regs) (v : Word) : (r.writeIE v).devIn = r.devIn := rfl
@[simp] theorem Regs_writeIE_sesIn (r : Regs) (v : Word) : (r.writeIE v).sesIn = r.sesIn := rfl
@[simp] theorem Regs_writeIE_payload (r : Regs) (v : Word) : (r.writeIE v).payload = r.payload := rfl
@[simp] theorem Regs_writeIE_rpayload (r : Regs) (v : Word) : (r.writeIE v).rpayload = r.rpayload := rfl
@[simp] theorem Regs_writeIE_nblk (r : Regs) (v : Word) : (r.writeIE v).nblk = r.nblk := rfl
@[simp] theorem Regs_writeIE_thr2 (r : Regs) (v : Word) : (r.writeIE v).thr2 = r.thr2 := rfl
@[simp] theorem Regs_writeIE_conf (r : Regs) (v : Word) : (r.writeIE v).conf = r.conf := rfl
@[simp] theorem Regs_writeIE_found (r : Regs) (v : Word) : (r.writeIE v).found = r.found := rfl
@[simp] theorem Regs_writeIE_rdevLen (r : Regs) (v : Word) : (r.writeIE v).rdevLen = r.rdevLen := rfl
@[simp] theorem Regs_writeIE_rsesLen (r : Regs) (v : Word) : (r.writeIE v).rsesLen = r.rsesLen := rfl
@[simp] theorem Regs_writeIE_rdev (r : Regs) (v : Word) : (r.writeIE v).rdev = r.rdev := rfl
@[simp] theorem Regs_writeIE_rses (r : Regs) (v : Word) : (r.writeIE v).rses = r.rses := rfl
@[simp] theorem Regs_writeIE_sum (r : Regs) (v : Word) : (r.writeIE v).sum = r.sum := rfl

end Sys2Proof.Machine
end

