-- ==== Sys2Proof/Laws/Codec.lean ====
section
/-! SUPPORT. The codec's byte arrays and bit sequences element by element, and the lengths of its strings. The definitions
that build an array are irreducible: these lemmas stand for them. -/

namespace Sys2Proof.Machine

/-! ### Byte arrays -/

theorem half_staged (len : BitVec 16) (b : Vector Byte 16) (i : Nat) (h : i < 16) :
    half (stagedId len b) i = if i < min len.toNat 16 then b[i] else 0#8 := by
  unfold stagedId half
  simp only [List.length_take, Vector.length_toList, List.getElem?_take]
  by_cases h2 : i < min len.toNat 16
  · rw [if_pos (by omega), if_pos h2, if_pos h2]
    simp [h]
  · rw [if_neg (by omega), if_neg h2]

/-- The first half of a payload (40_codec.md R102). -/
theorem buildPayload_low (d s : List Byte) (i : Nat) (h : i < 16) : (buildPayload d s)[i] = half d i := by
  unfold buildPayload
  simp [h]

/-- The second half of a payload (40_codec.md R102). -/
theorem buildPayload_high (d s : List Byte) (i : Nat) (h : i < 16) : (buildPayload d s)[16 + i] = half s i := by
  unfold buildPayload
  simp

theorem idBytes_get (x : List Byte) (i : Nat) (h : i < 16) : (idBytes x)[i] = x[i]?.getD 0#8 := by
  unfold idBytes
  simp only [Vector.getElem_ofFn]
  split
  · rfl
  · next hx => simp [List.getElem?_eq_none (Nat.le_of_not_lt hx)]

/-- The bytes below the length are the identifier, as the host reads it. -/
theorem idBytes_take (x : List Byte) (h : x.length ≤ 16) :
    (idBytes x).toList.take (BitVec.ofNat 5 x.length).toNat = x := by
  rw [BitVec.toNat_ofNat, Nat.mod_eq_of_lt (by omega)]
  apply List.ext_getElem
  · simp [h]
  · intro i h1 h2
    rw [List.getElem_take, Vector.getElem_toList, idBytes_get _ _ (by omega)]
    simp [h2]

/-! ### Bits -/

theorem packByte_toNat (b : Nat → Bool) :
    (packByte b).toNat =
      (b 0).toNat + 2 * (b 1).toNat + 4 * (b 2).toNat + 8 * (b 3).toNat + 16 * (b 4).toNat + 32 * (b 5).toNat +
        64 * (b 6).toNat + 128 * (b 7).toNat := by
  have hb : ∀ i, (b i).toNat ≤ 1 := fun i => by cases b i <;> decide
  simp only [packByte, List.range, List.range.loop, List.map, List.sum_cons, List.sum_nil, BitVec.toNat_ofNat]
  have := hb 0
  have := hb 1
  have := hb 2
  have := hb 3
  have := hb 4
  have := hb 5
  have := hb 6
  have := hb 7
  omega

theorem packByte_bit (b : Nat → Bool) (i : Nat) (h : i < 8) : (packByte b).getLsbD i = b i := by
  have key : ∀ (b0 b1 b2 b3 b4 b5 b6 b7 : Bool), ∀ i < 8,
      (b0.toNat + 2 * b1.toNat + 4 * b2.toNat + 8 * b3.toNat + 16 * b4.toNat + 32 * b5.toNat + 64 * b6.toNat +
        128 * b7.toNat).testBit i = [b0, b1, b2, b3, b4, b5, b6, b7][i]?.getD false := by decide +kernel
  rw [BitVec.getLsbD, packByte_toNat, key _ _ _ _ _ _ _ _ i h]
  rcases i with _ | _ | _ | _ | _ | _ | _ | _ | i <;> first | rfl | omega

@[simp] theorem payloadToBits_length (p : Vector Byte 32) : (payloadToBits p).length = 256 := by
  simp [payloadToBits]

/-- One element of a payload's bit sequence (40_codec.md R103). -/
theorem payloadToBits_get (p : Vector Byte 32) (k : Nat) (h : k < 256) :
    (payloadToBits p)[k]? = some (p[k / 8].getLsbD (k % 8)) := by
  simp [payloadToBits, payloadBit, h, show k / 8 < 32 by omega]

/-- One bit of a packed payload (40_codec.md R104). -/
theorem bitsToPayload_bit (b : List Bool) (hb : b.length ≤ 256) (k : Nat) (h : k < 256) :
    (bitsToPayload b hb)[k / 8].getLsbD (k % 8) = b[k]?.getD false := by
  unfold bitsToPayload
  rw [Vector.getElem_ofFn, packByte_bit _ _ (by omega)]
  simp only
  congr 2
  omega

/-! ### Lengths -/

theorem stripZeros_length_le (x : List Byte) : (stripZeros x).length ≤ x.length := by
  induction x with
  | nil => simp [stripZeros]
  | cons b r ih =>
    unfold stripZeros
    split
    · split <;> simp
    · next c m h =>
      rw [h] at ih
      simp only [List.length_cons] at *
      omega

theorem utf8Loop_length_le (x : List Byte) (fuel i : Nat) : (utf8Loop x fuel i).length ≤ x.length - i := by
  induction fuel generalizing i with
  | zero => simp [utf8Loop]
  | succ f ih =>
    unfold utf8Loop
    split
    · split
      · have := ih (i + wfLen x i)
        simp only [List.length_append, List.length_take, List.length_drop]
        omega
      · have := ih (i + 1)
        omega
    · simp

theorem parseIdentifiers_first_length_le (p : Vector Byte 32) : (parseIdentifiers p).1.length ≤ 16 := by
  refine (utf8Loop_length_le _ _ 0).trans ((stripZeros_length_le _).trans ?_)
  simp

theorem parseIdentifiers_second_length_le (p : Vector Byte 32) : (parseIdentifiers p).2.length ≤ 16 := by
  refine (utf8Loop_length_le _ _ 0).trans ((stripZeros_length_le _).trans ?_)
  simp

/-! ### The table of well-formed sequences -/

theorem byteIn_drop (x : List Byte) (i n lo hi : Nat) : byteIn (x.drop i) n lo hi = byteIn x (i + n) lo hi := by
  simp only [byteIn, List.getElem?_drop]

theorem wfLen_drop (x : List Byte) (i n : Nat) : wfLen (x.drop i) n = wfLen x (i + n) := by
  simp only [wfLen, contByte, byteIn_drop, Nat.add_assoc]

theorem utf8Loop_shift (fuel : Nat) (x : List Byte) (i k : Nat) :
    utf8Loop x fuel (i + k) = utf8Loop (x.drop i) fuel k := by
  induction fuel generalizing k with
  | zero => rfl
  | succ f ih =>
    unfold utf8Loop
    rw [List.length_drop, wfLen_drop, List.drop_drop]
    by_cases h : i + k < x.length
    · have h' : k < x.length - i := by omega
      rw [if_pos h, if_pos h', ← ih (k + wfLen x (i + k)), ← ih (k + 1), Nat.add_assoc, Nat.add_assoc]
    · rw [if_neg h, if_neg (by omega)]

/-- Fuel beyond what is left to read changes nothing. -/
theorem utf8Loop_fuel (f g : Nat) (x : List Byte) (i : Nat) (hf : x.length - i ≤ f) (hg : x.length - i ≤ g) :
    utf8Loop x f i = utf8Loop x g i := by
  induction f generalizing g i with
  | zero =>
    cases g with
    | zero => rfl
    | succ g =>
      unfold utf8Loop
      rw [if_neg (by omega)]
  | succ f ih =>
    cases g with
    | zero =>
      unfold utf8Loop
      rw [if_neg (by omega)]
    | succ g =>
      unfold utf8Loop
      by_cases h : i < x.length
      · rw [if_pos h, if_pos h]
        split
        · rw [ih g _ (by omega) (by omega)]
        · rw [ih g _ (by omega) (by omega)]
      · rw [if_neg h, if_neg h]

end Sys2Proof.Machine
end

