-- ==== Sys2Proof/Laws/Decode.lean ====
section
/-! SUPPORT. The fields of a command word as numbers, and the three ways a format's decoder can answer. -/

namespace Sys2Proof

theorem opField_toNat (w : Word) : (opField w).toNat = w.toNat / 2 ^ 24 := by
  have := w.isLt
  simp only [opField, BitVec.extractLsb'_toNat, Nat.shiftRight_eq_div_pow]
  omega

theorem rsvZ_toNat (w : Word) : (rsvZ w).toNat = w.toNat % 2 ^ 24 := by
  simp [rsvZ, BitVec.extractLsb'_toNat]

theorem rsvS_toNat (w : Word) : (rsvS w).toNat = w.toNat % 2 ^ 24 / 2 := by
  have := w.isLt
  simp only [rsvS, BitVec.extractLsb'_toNat, Nat.shiftRight_eq_div_pow]
  omega

theorem mField_eq (w : Word) : mField w = if w.toNat % 2 = 1 then .dst else .src := by
  simp only [mField, BitVec.getLsbD, Nat.testBit_zero, decide_eq_true_eq]

/-- Everything the decoder of format Z can answer. -/
theorem decodeZ_cases (w : Word) (i : Instr) :
    (1 ≤ w.toNat % 2 ^ 24 ∧ decodeZ w i = .error .reserved) ∨ (w.toNat % 2 ^ 24 = 0 ∧ decodeZ w i = .ok i) := by
  have h := rsvZ_toNat w
  unfold decodeZ
  split
  · next hz =>
    rw [hz] at h
    exact .inr ⟨h.symm, rfl⟩
  · next hz =>
    have : (rsvZ w).toNat ≠ 0 := fun e => hz (BitVec.eq_of_toNat_eq e)
    exact .inl ⟨by omega, rfl⟩

/-- Everything the decoder of format S can answer. -/
theorem decodeS_cases (w : Word) (i : Space → Instr) :
    (2 ≤ w.toNat % 2 ^ 24 ∧ decodeS w i = .error .reserved) ∨ (w.toNat % 2 ^ 24 = 0 ∧ decodeS w i = .ok (i .src)) ∨
      (w.toNat % 2 ^ 24 = 1 ∧ decodeS w i = .ok (i .dst)) := by
  have h := rsvS_toNat w
  have hm := mField_eq w
  unfold decodeS
  split
  · next hz =>
    rw [hz, BitVec.toNat_ofNat] at h
    by_cases hb : w.toNat % 2 = 1
    · rw [if_pos hb] at hm
      exact .inr (.inr ⟨by omega, by rw [hm]⟩)
    · rw [if_neg hb] at hm
      exact .inr (.inl ⟨by omega, by rw [hm]⟩)
  · next hz =>
    have : (rsvS w).toNat ≠ 0 := fun e => hz (BitVec.eq_of_toNat_eq e)
    exact .inl ⟨by omega, rfl⟩

end Sys2Proof
end

