-- ==== Sys2Proof/Laws/Memory.lean ====
section
/-! SUPPORT. The laws of byte memories: what a read gives after each write, and that every write keeps the canonical form
and the installed size. -/

namespace Sys2Proof.Machine

/-! ### Reading -/

@[simp] theorem Memory.get?_nil (a : Nat) : Memory.get? [] a = none := rfl

theorem Memory.get?_cons (k : Nat) (b : Byte) (m : Memory) (a : Nat) :
    Memory.get? ((k, b) :: m) a = if k = a then some b else m.get? a := rfl

theorem Memory.get?_eq_none {m : Memory} {a : Nat} (h : ∀ c ∈ m, c.1 ≠ a) : m.get? a = none := by
  induction m with
  | nil => rfl
  | cons c rest ih =>
    obtain ⟨k, b⟩ := c
    have hk : k ≠ a := h (k, b) (by simp)
    rw [Memory.get?_cons, if_neg hk]
    exact ih fun c hc => h c (by simp [hc])

theorem Memory.get?_append (m n : Memory) (a : Nat) : Memory.get? (m ++ n) a = (m.get? a).or (n.get? a) := by
  induction m with
  | nil => rfl
  | cons c rest ih =>
    obtain ⟨k, b⟩ := c
    rw [List.cons_append, Memory.get?_cons, Memory.get?_cons, ih]
    split <;> rfl

theorem Memory.get?_filter (m : Memory) (p : Nat → Bool) (a : Nat) :
    Memory.get? (m.filter fun c => p c.1) a = if p a then m.get? a else none := by
  induction m with
  | nil => simp
  | cons c rest ih =>
    obtain ⟨k, b⟩ := c
    by_cases hk : k = a
    · subst hk
      by_cases hp : p k <;> simp_all [Memory.get?_cons]
    · by_cases hp : p k <;> simp_all [Memory.get?_cons]

theorem Memory.get?_cellsFrom (bs : List Byte) (a x : Nat) :
    Memory.get? (cellsFrom a bs) x = if a ≤ x then bs[x - a]? else none := by
  induction bs generalizing a with
  | nil => simp [cellsFrom]
  | cons b rest ih =>
    rw [cellsFrom, Memory.get?_cons, ih]
    by_cases h : a = x
    · subst h; simp
    · by_cases hx : a ≤ x
      · have h1 : a + 1 ≤ x := by omega
        have h2 : x - a = (x - (a + 1)) + 1 := by omega
        simp [h, hx, h1, h2]
      · have h1 : ¬a + 1 ≤ x := by omega
        simp [h, hx, h1]

/-- Read after a one-byte write (20_memory.md R69). -/
theorem Memory.get?_put (m : Memory) (a : Nat) (b : Byte) (x : Nat) (hm : m.wf) :
    (m.put a b).get? x = if x = a then some b else m.get? x := by
  induction m with
  | nil => simp [Memory.put, Memory.get?_cons, eq_comm]
  | cons c rest ih =>
    obtain ⟨k, d⟩ := c
    have hrest := List.pairwise_cons.1 hm
    have ih := ih hrest.2
    unfold Memory.put
    split
    · rw [Memory.get?_cons]
      by_cases hx : x = a
      · simp [hx]
      · simp [hx, Ne.symm hx]
    · split
      · next h1 h2 =>
        subst h2
        by_cases hx : x = a
        · simp [Memory.get?_cons, hx]
        · simp [Memory.get?_cons, hx, Ne.symm hx]
      · next h1 h2 =>
        rw [Memory.get?_cons, Memory.get?_cons, ih]
        by_cases hx : x = a
        · have : k ≠ x := by omega
          simp [hx, Ne.symm h2]
        · simp [hx]

/-- Read after a run of writes: the run's byte inside it, the old byte outside. -/
theorem Memory.get?_storeRun (m : Memory) (a : Nat) (bs : List Byte) (x : Nat) :
    (m.storeRun a bs).get? x = if a ≤ x ∧ x < a + bs.length then bs[x - a]? else m.get? x := by
  have h1 := Memory.get?_filter m (fun k => decide (k < a)) x
  have h2 := Memory.get?_filter m (fun k => decide (a + bs.length ≤ k)) x
  rw [Memory.storeRun, Memory.get?_append, Memory.get?_append, h1, h2, Memory.get?_cellsFrom]
  by_cases hlo : x < a
  · have : ¬a ≤ x := by omega
    have : ¬a + bs.length ≤ x := by omega
    simp [*]
  · have hax : a ≤ x := by omega
    by_cases hhi : x < a + bs.length
    · have : ¬a + bs.length ≤ x := by omega
      simp [*]
    · have h3 : a + bs.length ≤ x := by omega
      have h4 : bs[x - a]? = none := List.getElem?_eq_none (by omega)
      simp [*]

/-! ### The canonical form -/

theorem Memory.mem_put {m : Memory} {a : Nat} {b : Byte} {c : Host.Cell} (h : c ∈ m.put a b) : c = (a, b) ∨ c ∈ m := by
  induction m with
  | nil => simpa [Memory.put] using h
  | cons d rest ih =>
    obtain ⟨k, e⟩ := d
    unfold Memory.put at h
    split at h
    · simpa using h
    · split at h
      · rcases List.mem_cons.1 h with h | h
        · exact .inl h
        · exact .inr (List.mem_cons_of_mem _ h)
      · rcases List.mem_cons.1 h with h | h
        · exact .inr (by simp [h])
        · rcases ih h with h | h
          · exact .inl h
          · exact .inr (List.mem_cons_of_mem _ h)

theorem Memory.put_wf {m : Memory} (hm : m.wf) (a : Nat) (b : Byte) : (m.put a b).wf := by
  induction m with
  | nil => simp [Memory.put, Memory.wf]
  | cons d rest ih =>
    obtain ⟨k, e⟩ := d
    have hrest := List.pairwise_cons.1 hm
    unfold Memory.put
    split
    · next h =>
      refine List.pairwise_cons.2 ⟨fun c hc => ?_, hm⟩
      rcases List.mem_cons.1 hc with hc | hc
      · simpa [hc] using h
      · exact Nat.lt_trans h (hrest.1 c hc)
    · split
      · next h1 h2 =>
        subst h2
        exact List.pairwise_cons.2 ⟨hrest.1, hrest.2⟩
      · next h1 h2 =>
        refine List.pairwise_cons.2 ⟨fun c hc => ?_, ih hrest.2⟩
        rcases Memory.mem_put hc with hc | hc
        · subst hc
          show k < a
          omega
        · exact hrest.1 c hc

theorem mem_cellsFrom {a : Nat} {bs : List Byte} {c : Host.Cell} (h : c ∈ cellsFrom a bs) :
    a ≤ c.1 ∧ c.1 < a + bs.length := by
  induction bs generalizing a with
  | nil => simp [cellsFrom] at h
  | cons b rest ih =>
    rcases List.mem_cons.1 h with h | h
    · subst h; simp
    · have := ih h
      simp only [List.length_cons]
      omega

theorem cellsFrom_wf (a : Nat) (bs : List Byte) : Memory.wf (cellsFrom a bs) := by
  induction bs generalizing a with
  | nil => exact List.Pairwise.nil
  | cons b rest ih =>
    refine List.pairwise_cons.2 ⟨fun c hc => ?_, ih (a + 1)⟩
    have := (mem_cellsFrom hc).1
    show a < c.1
    omega

theorem Memory.storeRun_wf {m : Memory} (hm : m.wf) (a : Nat) (bs : List Byte) : (m.storeRun a bs).wf := by
  unfold Memory.storeRun
  refine List.pairwise_append.2 ⟨List.pairwise_append.2 ⟨hm.filter _, cellsFrom_wf a bs, ?_⟩, hm.filter _, ?_⟩
  · intro c hc d hd
    have h1 : c.1 < a := by simpa using (List.mem_filter.1 hc).2
    have h2 := (mem_cellsFrom hd).1
    omega
  · intro c hc d hd
    have h2 : a + bs.length ≤ d.1 := by simpa using (List.mem_filter.1 hd).2
    rcases List.mem_append.1 hc with hc | hc
    · have h1 : c.1 < a := by simpa using (List.mem_filter.1 hc).2
      omega
    · have h1 := (mem_cellsFrom hc).2
      omega

/-- A write inside the installed size keeps a memory canonical and inside it. -/
theorem MemoryInv_put {m : Memory} {size a : Nat} (hm : MemoryInv m size) (ha : a < size) (b : Byte) :
    MemoryInv (m.put a b) size where
  canonical := Memory.put_wf hm.canonical a b
  in_range := fun c hc => by
    rcases Memory.mem_put hc with hc | hc
    · simpa [hc] using ha
    · exact hm.in_range c hc

/-- A run of writes inside the installed size keeps a memory canonical and inside it. -/
theorem MemoryInv_storeRun {m : Memory} {size a : Nat} {bs : List Byte} (hm : MemoryInv m size) (ha : a + bs.length ≤ size) :
    MemoryInv (m.storeRun a bs) size where
  canonical := Memory.storeRun_wf hm.canonical a bs
  in_range := fun c hc => by
    unfold Memory.storeRun at hc
    rcases List.mem_append.1 hc with hc | hc
    · rcases List.mem_append.1 hc with hc | hc
      · exact hm.in_range c (List.mem_filter.1 hc).1
      · exact Nat.lt_of_lt_of_le (mem_cellsFrom hc).2 ha
    · exact hm.in_range c (List.mem_filter.1 hc).1

/-- A memory with nothing listed, as after hardware reset, is canonical. -/
theorem MemoryInv_nil (size : Nat) : MemoryInv [] size where
  canonical := List.Pairwise.nil
  in_range := by simp

/-! ### Reading through the state -/

@[simp] theorem State_mem_src (s : State) : s.mem .src = s.src := rfl

@[simp] theorem State_mem_dst (s : State) : s.mem .dst = s.dst := rfl

/-- A read depends on the memory read and on the free bytes of this instance and this reset alone. -/
theorem State_readByte_congr {s t : State} (m : Space) (a : Nat) (h : (s.mem m).get? a = (t.mem m).get? a)
    (hr : s.resets = t.resets) (hu : s.cfg.unit = t.cfg.unit) : s.readByte m a = t.readByte m a := by
  simp only [State.readByte, h, hr, hu]

@[simp] theorem State_readByte_withRegs (s : State) (r : Regs) (m : Space) (a : Nat) :
    (s.withRegs r).readByte m a = s.readByte m a := by
  cases m <;> rfl

@[simp] theorem State_readByte_finish (s : State) (m : Space) (a : Nat) : s.finish.readByte m a = s.readByte m a := by
  cases m <;> rfl

@[simp] theorem State_readByte_raise (s : State) (e : Err) (w : Word) (m : Space) (a : Nat) :
    (raise e w s).readByte m a = s.readByte m a := by
  cases m <;> rfl

@[simp] theorem State_readByte_withPending (s : State) (p : List HostOp) (m : Space) (a : Nat) :
    (s.withPending p).readByte m a = s.readByte m a := by
  cases m <;> rfl

@[simp] theorem State_readByte_storeDst_src (s : State) (bs : List Byte) (a : Nat) :
    (s.storeDst bs).readByte .src a = s.readByte .src a := rfl

/-- What DST reads as after a store from address 0 on. -/
theorem State_readByte_storeDst (s : State) (bs : List Byte) (a : Nat) :
    (s.storeDst bs).readByte .dst a = if h : a < bs.length then bs[a] else s.readByte .dst a := by
  unfold State.readByte
  simp only [State_mem_dst, State_storeDst_dst, State_storeDst_resets, Memory.get?_storeRun]
  by_cases h : a < bs.length <;> simp [h]

end Sys2Proof.Machine
end

