-- ==== Sys2Proof/Laws/Ops.lean ====
section
/-! SUPPORT. What each shared operation can do, said once: the shape of a command, a rejected word, issuing a word, one host
operation, one step. -/

namespace Sys2Proof.Machine

/-! ### The shape of a command -/

theorem command_dropped {s : State} (h : s.regs.err = true) (w : Word) (check : Option Err) (f : State → State) :
    command s w check f = .next s := by
  simp [command, h]

theorem command_raised {s : State} (h : s.regs.err = false) (w : Word) (e : Err) (f : State → State) :
    command s w (some e) f = .next (raise e w s) := by
  simp [command, h]

theorem command_done {s : State} (h : s.regs.err = false) (w : Word) (f : State → State) :
    command s w none f = .next (f s).finish := by
  simp [command, h]

/-- Everything a command of the common shape can do. -/
theorem command_cases {s t : State} {w : Word} {check : Option Err} {f : State → State} (h : command s w check f = .next t) :
    (s.regs.err = true ∧ t = s) ∨ (s.regs.err = false ∧ ∃ e, check = some e ∧ t = raise e w s) ∨
      (s.regs.err = false ∧ check = none ∧ t = (f s).finish) := by
  cases he : s.regs.err with
  | true =>
    rw [command_dropped he] at h
    cases h
    exact .inl ⟨rfl, rfl⟩
  | false =>
    cases check with
    | some e =>
      rw [command_raised he] at h
      cases h
      exact .inr (.inl ⟨rfl, e, rfl, rfl⟩)
    | none =>
      rw [command_done he] at h
      cases h
      exact .inr (.inr ⟨rfl, rfl, rfl⟩)

/-- A command of the common shape always answers a next state. -/
theorem command_next (s : State) (w : Word) (check : Option Err) (f : State → State) :
    ∃ t, command s w check f = .next t := by
  cases he : s.regs.err with
  | true => exact ⟨s, command_dropped he w check f⟩
  | false =>
    cases check with
    | some e => exact ⟨_, command_raised he w e f⟩
    | none => exact ⟨_, command_done he w f⟩

/-- The check that a command makes (60_exceptions.md R202), read off the meanings. -/
def checkOf (s : State) : Instr → Option Err
  | .embed => s.embedCheck
  | .luma m => s.scanCheck m
  | .detect m => s.scanCheck m
  | _ => none

/-- The effect that a command other than `SRST` has before `DONE` is set, read off the meanings. -/
def effectOf : Instr → State → State
  | .build => buildEffect
  | .embed => embedEffect
  | .luma m => lumaEffect m
  | .thresh => threshEffect
  | .classify => classifyEffect
  | .parse => parseEffect
  | .score => scoreEffect
  | .detect m => detectEffect m
  | _ => fun s => s

/-- Every command but `SRST` has the common shape. -/
theorem exec_eq_command {i : Instr} (h : i ≠ .srst) (s : State) :
    exec i s = command s (encode i) (checkOf s i) (effectOf i) := by
  cases i <;> first | rfl | exact absurd rfl h

/-- A command that is dropped. -/
theorem exec_dropped {i : Instr} (hi : i ≠ .srst) {s : State} (h : s.regs.err = true) : exec i s = .next s := by
  rw [exec_eq_command hi, command_dropped h]

/-- A command whose check fails. -/
theorem exec_raised {i : Instr} (hi : i ≠ .srst) {s : State} (h : s.regs.err = false) {e : Err}
    (hc : checkOf s i = some e) : exec i s = .next (raise e (encode i) s) := by
  rw [exec_eq_command hi, hc, command_raised h]

/-- A command that has its effect. -/
theorem exec_done {i : Instr} (hi : i ≠ .srst) {s : State} (h : s.regs.err = false) (hc : checkOf s i = none) :
    exec i s = .next (effectOf i s).finish := by
  rw [exec_eq_command hi, hc, command_done h]

@[simp] theorem exec_srst (s : State) : exec .srst s = .next (s.withRegs Regs.reset) := rfl

/-- Everything a command can do: `SRST` resets the registers; any other is dropped, takes an error, or has its effect. -/
theorem exec_cases {i : Instr} {s t : State} (h : exec i s = .next t) :
    (i = .srst ∧ t = s.withRegs Regs.reset) ∨ (i ≠ .srst ∧ s.regs.err = true ∧ t = s) ∨
      (i ≠ .srst ∧ s.regs.err = false ∧ ∃ e, checkOf s i = some e ∧ t = raise e (encode i) s) ∨
        (i ≠ .srst ∧ s.regs.err = false ∧ checkOf s i = none ∧ t = (effectOf i s).finish) := by
  by_cases hi : i = .srst
  · subst hi
    cases h
    exact .inl ⟨rfl, rfl⟩
  · rw [exec_eq_command hi] at h
    rcases command_cases h with h | h | h
    · exact .inr (.inl ⟨hi, h⟩)
    · exact .inr (.inr (.inl ⟨hi, h⟩))
    · exact .inr (.inr (.inr ⟨hi, h⟩))

/-- Every command answers a next state: none faults and none is refused. -/
theorem exec_next (i : Instr) (s : State) : ∃ t, exec i s = .next t := by
  by_cases hi : i = .srst
  · subst hi
    exact ⟨_, rfl⟩
  · rw [exec_eq_command hi]
    exact command_next s _ _ _

/-- A word that is no legal command always answers a next state. -/
theorem rejectWord_next (s : State) (w : Word) (e : Illegal) : ∃ t, rejectWord s w e = .next t := by
  unfold rejectWord
  split <;> exact ⟨_, rfl⟩

/-- Everything a rejected word can do. -/
theorem rejectWord_cases {s t : State} {w : Word} {e : Illegal} (h : rejectWord s w e = .next t) :
    (s.regs.err = true ∧ t = s) ∨ (s.regs.err = false ∧ t = raise (errOfIllegal e) w s) := by
  unfold rejectWord at h
  split at h
  · next he => cases h; exact .inl ⟨he, rfl⟩
  · next he => cases h; exact .inr ⟨by simpa using he, rfl⟩

/-! ### Issuing a word -/

theorem issue_ok {w : Word} {i : Instr} (h : decode w = .ok i) (s : State) : issue w s = exec i s := by
  simp [issue, h]

theorem issue_error {w : Word} {e : Illegal} (h : decode w = .error e) (s : State) : issue w s = rejectWord s w e := by
  simp [issue, h]

/-- Every word written to `CMD` answers a next state. -/
theorem issue_next (w : Word) (s : State) : ∃ t, issue w s = .next t := by
  cases h : decode w with
  | ok i => rw [issue_ok h]; exact exec_next i s
  | error e => rw [issue_error h]; exact rejectWord_next s w e

/-! ### Host operations -/

theorem hostRegWrite_cmd (w : Word) (s : State) : hostRegWrite 0x000 w s = issue w s := rfl

/-- A host write of a register other than `CMD`. -/
theorem hostRegWrite_reg {off : Nat} {r : Reg} (h : regAt off = some r) (hr : r ≠ .cmd) (v : Word) (s : State) :
    hostRegWrite off v s = .next (s.withRegs (s.regs.write v r)) := by
  unfold hostRegWrite
  rw [h]
  cases r <;> first | rfl | exact absurd rfl hr

/-- Everything a register write can do. -/
theorem hostRegWrite_cases {off : Nat} {v : Word} {s t : State} (h : hostRegWrite off v s = .next t) :
    (regAt off = some .cmd ∧ issue v s = .next t) ∨
      ∃ r, regAt off = some r ∧ r ≠ .cmd ∧ t = s.withRegs (s.regs.write v r) := by
  cases hr : regAt off with
  | none => simp [hostRegWrite, hr] at h
  | some r =>
    by_cases hc : r = .cmd
    · subst hc
      refine .inl ⟨rfl, ?_⟩
      simpa [hostRegWrite, hr] using h
    · rw [hostRegWrite_reg hr hc] at h
      cases h
      exact .inr ⟨r, rfl, hc, rfl⟩

/-! ### One step -/

theorem step_idle {s : State} (h : s.pending = []) : step s = .next s := by
  simp [step, h]

theorem step_pending {s : State} {op : HostOp} {rest : List HostOp} (h : s.pending = op :: rest) :
    step s = hostOp op (s.withPending rest) := by
  simp [step, h]

/-- Everything one step can do when it answers a next state. -/
theorem step_cases {s t : State} (h : step s = .next t) :
    (s.pending = [] ∧ t = s) ∨
      ∃ op rest, s.pending = op :: rest ∧ hostOp op (s.withPending rest) = .next t := by
  cases hp : s.pending with
  | nil =>
    rw [step_idle hp] at h
    cases h
    exact .inl ⟨rfl, rfl⟩
  | cons op rest =>
    rw [step_pending hp] at h
    exact .inr ⟨op, rest, rfl, h⟩

/-- A step that issues a command word. -/
theorem step_command {s : State} {w : Word} {rest : List HostOp} (h : s.pending = .regWrite 0x000 w :: rest) :
    step s = issue w (s.withPending rest) := by
  rw [step_pending h]
  rfl

/-! ### What the commands keep -/

theorem effectOf_keeps (i : Instr) (s : State) :
    (effectOf i s).src = s.src ∧ (effectOf i s).cfg = s.cfg ∧ (effectOf i s).resets = s.resets ∧
      (effectOf i s).pending = s.pending ∧ (effectOf i s).replies = s.replies := by
  cases i <;>
    simp [effectOf, buildEffect, embedEffect, lumaEffect, threshEffect, classifyEffect, parseEffect, scoreEffect, detectEffect]

/-- What every command keeps, whatever it does: SRC (10_state.md R45), the parameters, and the model's own fields. -/
theorem exec_keeps {i : Instr} {s t : State} (h : exec i s = .next t) :
    t.src = s.src ∧ t.cfg = s.cfg ∧ t.resets = s.resets ∧ t.pending = s.pending ∧ t.replies = s.replies := by
  obtain ⟨-, rfl⟩ | ⟨-, -, rfl⟩ | ⟨-, -, e, -, rfl⟩ | ⟨-, -, -, rfl⟩ := exec_cases h
  · simp
  · simp
  · simp
  · simpa using effectOf_keeps i s

end Sys2Proof.Machine
end

