-- ==== Sys2Proof/Laws/Image.lean ====
section
/-! SUPPORT. The image operands: register words of byte arrays, the checks of the image commands in the words of Safety.lean,
the grid that a command scans, the bytes that `EMBED` stores, and the registers that the detector's stages leave. -/

namespace Sys2Proof.Machine

/-! ### Words of a byte array -/

theorem putWord_get {n : Nat} (v : Vector Byte n) (j : Nat) (w : Word) (i : Nat) (h : i < n) :
    (putWord v j w)[i] = if i / 4 = j then byteOf w (i % 4) else v[i] := by
  unfold putWord
  simp

theorem byteOf_append (w : Word) : byteOf w 3 ++ byteOf w 2 ++ byteOf w 1 ++ byteOf w 0 = w := by
  apply BitVec.eq_of_getLsbD_eq
  intro k hk
  simp only [byteOf, BitVec.getLsbD_append, BitVec.getLsbD_extractLsb']
  by_cases h0 : k < 8
  · simp [h0]
  by_cases h1 : k < 16
  · simp [h0, show k - 8 < 8 by omega, show 8 + (k - 8) = k by omega]
  by_cases h2 : k < 24
  · simp [h0, show ¬k - 8 < 8 by omega, show k - 8 - 8 < 8 by omega, show 16 + (k - 8 - 8) = k by omega]
  · simp [h0, show ¬k - 8 < 8 by omega, show ¬k - 8 - 8 < 8 by omega, show k - 8 - 8 - 8 < 8 by omega,
      show 24 + (k - 8 - 8 - 8) = k by omega]

/-- A word just written reads back (10_state.md R25). -/
theorem wordAt_putWord_same {n : Nat} (v : Vector Byte n) (j : Nat) (w : Word) (h : 4 * j + 3 < n) :
    wordAt (putWord v j w) j = w := by
  have e : ∀ k, k < 4 → (putWord v j w)[4 * j + k]?.getD 0#8 = byteOf w k := by
    intro k hk
    rw [Vector.getElem?_eq_getElem (by omega), Option.getD_some, putWord_get _ _ _ _ (by omega), if_pos (by omega)]
    congr 1
    omega
  unfold wordAt
  rw [e 3 (by omega), e 2 (by omega), e 1 (by omega), show 4 * j = 4 * j + 0 from rfl, e 0 (by omega), byteOf_append]

/-- Every other word of the array is kept. -/
theorem wordAt_putWord_ne {n : Nat} (v : Vector Byte n) (j k : Nat) (w : Word) (h : 4 * k + 3 < n) (hjk : k ≠ j) :
    wordAt (putWord v j w) k = wordAt v k := by
  have e : ∀ i, i < 4 → (putWord v j w)[4 * k + i]?.getD 0#8 = v[4 * k + i]?.getD 0#8 := by
    intro i hi
    rw [Vector.getElem?_eq_getElem (by omega), Vector.getElem?_eq_getElem (by omega), Option.getD_some, Option.getD_some,
      putWord_get _ _ _ _ (by omega), if_neg (by omega)]
  unfold wordAt
  rw [e 3 (by omega), e 2 (by omega), e 1 (by omega), show 4 * k = 4 * k + 0 from rfl, e 0 (by omega)]

/-! ### Checks -/

theorem chanOk_iff (s : State) : s.chanOk = true ↔ ChannelsLegal s .src := by
  unfold State.chanOk State.channels ChannelsLegal
  simp only [Bool.or_eq_true, beq_iff_eq, true_imp_iff]
  constructor
  · rintro (h | h)
    · exact .inl (BitVec.eq_of_toNat_eq h)
    · exact .inr (BitVec.eq_of_toNat_eq h)
  · rintro (h | h) <;> rw [h] <;> simp

theorem fitsSrc_iff (s : State) : s.fitsSrc = true ↔ ImageFits s .src := by
  unfold State.fitsSrc
  rw [decide_eq_true_eq]
  rfl

theorem fitsDst_iff (s : State) : s.fitsDst = true ↔ ImageFits s .dst := by
  unfold State.fitsDst
  rw [decide_eq_true_eq]
  rfl

theorem channelsLegal_dst (s : State) : ChannelsLegal s .dst := fun h => by cases h

theorem scanCheck_chan {s : State} {m : Space} (h : ¬ChannelsLegal s m) : s.scanCheck m = some .chan := by
  cases m with
  | src =>
    have := (chanOk_iff s).not.2 h
    unfold State.scanCheck
    simp [this]
  | dst => exact absurd (channelsLegal_dst s) h

theorem scanCheck_size {s : State} {m : Space} (h : ChannelsLegal s m) (hf : ¬ImageFits s m) : s.scanCheck m = some .size := by
  cases m with
  | src =>
    have := (chanOk_iff s).2 h
    have := (fitsSrc_iff s).not.2 hf
    unfold State.scanCheck
    simp [*]
  | dst =>
    have := (fitsDst_iff s).not.2 hf
    unfold State.scanCheck
    simp [*]

theorem scanCheck_none {s : State} {m : Space} (h : ChannelsLegal s m) (hf : ImageFits s m) : s.scanCheck m = none := by
  cases m with
  | src =>
    have := (chanOk_iff s).2 h
    have := (fitsSrc_iff s).2 hf
    unfold State.scanCheck
    simp [*]
  | dst =>
    have := (fitsDst_iff s).2 hf
    unfold State.scanCheck
    simp [*]

theorem embedCheck_chan {s : State} (h : ¬ChannelsLegal s .src) : s.embedCheck = some .chan := by
  have := (chanOk_iff s).not.2 h
  unfold State.embedCheck
  simp [this]

theorem embedCheck_size {s : State} (h : ChannelsLegal s .src) (hf : ¬(ImageFits s .src ∧ ImageFits s .dst)) :
    s.embedCheck = some .size := by
  have hc := (chanOk_iff s).2 h
  rw [← fitsSrc_iff, ← fitsDst_iff] at hf
  unfold State.embedCheck
  rw [hc]
  cases hs : s.fitsSrc <;> cases hd : s.fitsDst <;> simp_all

theorem embedCheck_param {s : State} (h : ChannelsLegal s .src) (hs : ImageFits s .src) (hd : ImageFits s .dst)
    (hz : s.regs.strength = 0#16) : s.embedCheck = some .param := by
  have := (chanOk_iff s).2 h
  have := (fitsSrc_iff s).2 hs
  have := (fitsDst_iff s).2 hd
  unfold State.embedCheck
  simp [*]

theorem embedCheck_none {s : State} (h : ChannelsLegal s .src) (hs : ImageFits s .src) (hd : ImageFits s .dst)
    (hz : s.regs.strength ≠ 0#16) : s.embedCheck = none := by
  have := (chanOk_iff s).2 h
  have := (fitsSrc_iff s).2 hs
  have := (fitsDst_iff s).2 hd
  unfold State.embedCheck
  simp [*]

/-! ### `reduce` (41_embedder.md R131) -/

@[simp] theorem reduce_h (img : Image) : (reduce img).h = img.h := rfl

@[simp] theorem reduce_w (img : Image) : (reduce img).w = img.w := rfl

theorem average3_toNat (a b c : Byte) : (average3 a b c).toNat = (a.toNat + b.toNat + c.toNat) / 3 := by
  have := a.isLt
  have := b.isLt
  have := c.isLt
  rw [average3, BitVec.toNat_ofNat, Nat.mod_eq_of_lt (by omega)]

/-- One channel: the sample itself. -/
theorem reduce_one {img : Image} (h : img.channels = 1) (r c : Nat) : (reduce img).px r c = img.px r c 0 := by
  simp [reduce, h]

/-- Three channels: the average with its fraction dropped. -/
theorem reduce_three {img : Image} (h : img.channels = 3) (r c : Nat) :
    ((reduce img).px r c).toNat = ((img.px r c 0).toNat + (img.px r c 1).toNat + (img.px r c 2).toNat) / 3 := by
  rw [← average3_toNat]
  simp [reduce, h]

/-! ### The grid scanned -/

@[simp] theorem grid_h (s : State) (m : Space) : (s.grid m).h = s.regs.imgH.toNat := by cases m <;> rfl

@[simp] theorem grid_w (s : State) (m : Space) : (s.grid m).w = s.regs.imgW.toNat := by cases m <;> rfl

/-- A sample of the grid, as Safety.lean writes it from the rules. -/
theorem grid_px_toNat (s : State) (m : Space) (h : ChannelsLegal s m) (r c : Nat) :
    ((s.grid m).px r c).toNat = sampleOf s m r c := by
  cases m with
  | dst => rfl
  | src =>
    show ((reduce s.srcImage).px r c).toNat = _
    rcases h rfl with h | h
    · have hc : s.channels = 1 := by unfold State.channels; rw [h]; rfl
      rw [reduce_one hc]
      simp only [State.srcImage, State.srcSample, State.width, sampleOf, hc, h, if_true, Nat.mul_one, Nat.add_zero]
    · have hc : s.channels = 3 := by unfold State.channels; rw [h]; rfl
      have h1 : ¬s.regs.imgC = 1#8 := by rw [h]; decide
      rw [reduce_three hc]
      simp only [State.srcImage, State.srcSample, State.width, sampleOf, hc, if_neg h1, Nat.mul_comm, Nat.add_zero]

theorem sampleOf_lt (s : State) (m : Space) (h : ChannelsLegal s m) (r c : Nat) : sampleOf s m r c < 256 := by
  rw [← grid_px_toNat s m h]
  exact BitVec.isLt _

/-! ### The embedder's arithmetic and store -/

theorem roundSample_le (rnd : Rnd) (v : Nat) (h : v ≤ 65280) : roundSample rnd v ≤ 255 := by
  unfold roundSample
  cases rnd <;> simp only
  · omega
  · split <;> omega
  · omega

/-- The sample as a number: clipped, then rounded, never wrapped (41_embedder.md R135). -/
theorem embedSample_toNat (rnd : Rnd) (x : Byte) (b : Option Bool) (S : BitVec 16) :
    (embedSample rnd x b S).toNat = roundSample rnd (min (max (movedSample x.toNat b S.toNat) 0) 65280).toNat := by
  unfold embedSample
  rw [BitVec.toNat_ofNat, Nat.mod_eq_of_lt]
  have := roundSample_le rnd (min (max (movedSample x.toNat b S.toNat) 0) 65280).toNat (by omega)
  omega

@[simp] theorem Grid.bytes_length (g : Grid) : g.bytes.length = g.h * g.w := by
  simp [Grid.bytes]

/-- Byte `r*W + c` of a grid is its sample there (20_memory.md R67). -/
theorem Grid.bytes_get (g : Grid) {r c : Nat} (hr : r < g.h) (hc : c < g.w) :
    g.bytes[r * g.w + c]? = some (g.px r c) := by
  have h1 : r * g.w + c < g.h * g.w :=
    calc r * g.w + c < r * g.w + g.w := by omega
      _ = (r + 1) * g.w := by ring
      _ ≤ g.h * g.w := Nat.mul_le_mul_right _ hr
  have h2 : (r * g.w + c) / g.w = r := by
    rw [Nat.mul_comm, Nat.mul_add_div (by omega), Nat.div_eq_of_lt hc, Nat.add_zero]
  have h3 : (r * g.w + c) % g.w = c := by
    rw [Nat.mul_comm, Nat.mul_add_mod, Nat.mod_eq_of_lt hc]
  simp [Grid.bytes, h1, h2, h3]

/-! ### The detector's stages -/

theorem sum_map_range (n : Nat) (f : Nat → Nat) : ((List.range n).map f).sum = ∑ i ∈ Finset.range n, f i := by
  induction n with
  | zero => rfl
  | succ n ih =>
    rw [List.range_succ, List.map_append, List.sum_append, ih, Finset.sum_range_succ]
    simp

theorem Grid.blockSum_eq (s : State) (m : Space) (h : ChannelsLegal s m) (k : Nat) :
    (s.grid m).blockSum k = blockSumOf s m k := by
  unfold Grid.blockSum blockSumOf
  rw [sum_map_range]
  refine Finset.sum_congr rfl fun i _ => ?_
  rw [sum_map_range]
  refine Finset.sum_congr rfl fun j _ => ?_
  rw [grid_px_toNat s m h]
  simp only [Grid.blockCols, grid_w]

theorem blockSumOf_le (s : State) (m : Space) (h : ChannelsLegal s m) (k : Nat) : blockSumOf s m k ≤ 16320 := by
  unfold blockSumOf
  calc _ ≤ ∑ i ∈ Finset.range 8, ∑ j ∈ Finset.range 8, 255 := by
        refine Finset.sum_le_sum fun i _ => Finset.sum_le_sum fun j _ => ?_
        have := sampleOf_lt s m h (8 * (k / (s.regs.imgW.toNat / 8)) + i) (8 * (k % (s.regs.imgW.toNat / 8)) + j)
        omega
    _ = 16320 := by simp

theorem Grid.scanned_eq (s : State) (m : Space) : (s.grid m).scanned = min (blockCount s) 256 := by
  simp only [Grid.scanned, Grid.blocks, Grid.blockRows, Grid.blockCols, grid_h, grid_w, blockCount]

theorem Grid.sumRegs_get (s : State) (m : Space) (h : ChannelsLegal s m) (k : Nat) (hk : k < 256) :
    (s.grid m).sumRegs[k].toNat = if k < min (blockCount s) 256 then blockSumOf s m k else 0 := by
  unfold Grid.sumRegs
  rw [Vector.getElem_ofFn, Grid.scanned_eq]
  simp only
  split
  · rw [Grid.blockSum_eq s m h, BitVec.toNat_ofNat, Nat.mod_eq_of_lt]
    have := blockSumOf_le s m h k
    omega
  · rfl

theorem Regs.sums_length_le (r : Regs) : r.sums.length ≤ 256 := by
  simp [Regs.sums]

theorem Regs.sums_eq (r : Regs) (h : r.nblk.toNat ≤ 256) :
    r.sums = (List.range r.nblk.toNat).map fun k => (r.sum[k]?.getD 0#14).toNat := by
  unfold Regs.sums
  apply List.ext_getElem
  · simp
    omega
  · intro i h1 h2
    simp only [List.length_map, List.length_range] at h2
    simp only [List.getElem_map, List.getElem_take, Vector.getElem_toList, List.getElem_range]
    rw [Vector.getElem?_eq_getElem (by omega)]
    rfl

theorem median2_le (x : List Nat) (n : Nat) (h : ∀ v ∈ x, v ≤ n) : median2 x ≤ 2 * n := by
  unfold median2
  have h' : ∀ v ∈ x.insertionSort (· ≤ ·), v ≤ n := fun v hv => h v ((List.mem_insertionSort _).1 hv)
  generalize x.insertionSort (· ≤ ·) = y at *
  have hg : ∀ i : Nat, y[i]?.getD 0 ≤ n := by
    intro i
    cases hi : y[i]? with
    | none => simp
    | some v => exact h' v (List.mem_of_getElem? hi)
  unfold median2Sorted
  split
  · omega
  · split
    · have := hg ((y.length - 1) / 2)
      omega
    · have := hg (y.length / 2 - 1)
      have := hg (y.length / 2)
      omega

theorem threshEffect_thr2 (s : State) : (threshEffect s).regs.thr2.toNat = median2 s.regs.sums := by
  show (BitVec.ofNat 15 (median2 s.regs.sums)).toNat = _
  rw [BitVec.toNat_ofNat, Nat.mod_eq_of_lt]
  have := median2_le s.regs.sums 16383 fun v hv => by
    obtain ⟨b, -, rfl⟩ := List.mem_map.1 hv
    have := b.isLt
    omega
  omega

theorem confidenceNum_le (b : List Bool) (h : b.length ≤ 256) : confidenceNum b ≤ 256 := by
  have := List.count_le_length (a := true) (l := b)
  unfold confidenceNum
  omega

theorem scoreEffect_conf (s : State) : (scoreEffect s).regs.conf.toNat = confidenceNum (payloadToBits s.regs.rpayload) := by
  show (BitVec.ofNat 9 (confidenceNum (payloadToBits s.regs.rpayload))).toNat = _
  rw [BitVec.toNat_ofNat, Nat.mod_eq_of_lt]
  have := confidenceNum_le (payloadToBits s.regs.rpayload) (by simp)
  omega

theorem parseEffect_rdevLen (s : State) :
    (parseEffect s).regs.rdevLen.toNat = (parseIdentifiers s.regs.rpayload).1.length := by
  show (BitVec.ofNat 5 (parseIdentifiers s.regs.rpayload).1.length).toNat = _
  have := parseIdentifiers_first_length_le s.regs.rpayload
  rw [BitVec.toNat_ofNat, Nat.mod_eq_of_lt (by omega)]

theorem parseEffect_rsesLen (s : State) :
    (parseEffect s).regs.rsesLen.toNat = (parseIdentifiers s.regs.rpayload).2.length := by
  show (BitVec.ofNat 5 (parseIdentifiers s.regs.rpayload).2.length).toNat = _
  have := parseIdentifiers_second_length_le s.regs.rpayload
  rw [BitVec.toNat_ofNat, Nat.mod_eq_of_lt (by omega)]

end Sys2Proof.Machine
end

