-- ==== Sys2Proof/Laws/PerInstr.lean ====
section
/-! SUPPORT. Per-instruction families. -/

namespace Sys2Proof.Laws.EncodeDecode

/-- The command word of a command decodes to it, with its operand (30_encoding.md R84), and the command is well formed. -/
def Statement (i : Instr) : Prop := decode (encode i) = .ok i ∧ i.wf = true

theorem nop : Statement .nop := by unfold Statement; decide

theorem build : Statement .build := by unfold Statement; decide

theorem embed : Statement .embed := by unfold Statement; decide

theorem luma (m : Space) : Statement (.luma m) := by unfold Statement; cases m <;> decide

theorem thresh : Statement .thresh := by unfold Statement; decide

theorem classify : Statement .classify := by unfold Statement; decide

theorem parse : Statement .parse := by unfold Statement; decide

theorem score : Statement .score := by unfold Statement; decide

theorem detect (m : Space) : Statement (.detect m) := by unfold Statement; cases m <;> decide

theorem srst : Statement .srst := by unfold Statement; decide

end Sys2Proof.Laws.EncodeDecode
end

