-- ==== Sys2Proof/Tests/Slice0.lean ====
section
/-! SUPPORT. Tests of the model, each about one step or one function with its expected result taken from the spec
(95_test_vectors.md unless another place is named), and a witness for the hypotheses of every statement that has any. -/

namespace Sys2Proof.Tests

set_option Elab.async false

open Sys2Proof Sys2Proof.Machine

/-! ### Helpers -/

/-- A small instance, as in the vectors V-X2. -/
def smallCfg : Config := { srcSize := 1000, dstSize := 500, rnd := .halfUp, unit := 0 }

/-- An instance large enough for 128 by 128 pixels. -/
def bigCfg : Config := { srcSize := 49152, dstSize := 16448, rnd := .halfUp, unit := 0 }

/-- The registers after reset with an image description and a strength. -/
def imgRegs (h w : BitVec 16) (c : BitVec 8) (strength : BitVec 16) : Regs :=
  { Regs.reset with imgH := h, imgW := w, imgC := c, strength := strength }

/-- A state with given registers and source bytes from address 0 on, nothing else. -/
def mk (cfg : Config) (r : Regs) (src : List Byte) : State :=
  { State.resetWith cfg with regs := r, src := cellsFrom 0 src }

/-- A 32-byte value from its first bytes. -/
def bytes32 (l : List Byte) : Vector Byte 32 := Vector.ofFn fun i => l[i.val]?.getD 0#8

/-- A 16-byte value from its first bytes. -/
def bytes16 (l : List Byte) : Vector Byte 16 := Vector.ofFn fun i => l[i.val]?.getD 0#8

/-- Block sums from their first values. -/
def sums (l : List Nat) : Vector (BitVec 14) 256 := Vector.ofFn fun i => BitVec.ofNat 14 (l[i.val]?.getD 0)

/-- A property of the next state; false of a fault or a refusal. -/
def ends (o : Outcome) (p : State → Bool) : Bool :=
  match o with
  | .next t => p t
  | _ => false

/-- The refusal, if the outcome is one. -/
def refusal (o : Outcome) : Option Refusal :=
  match o with
  | .refused r => some r
  | _ => none

/-- What the host's last read returned. -/
def lastReply (o : Outcome) : Option Reply :=
  match o with
  | .next t => t.replies.head?
  | _ => none

/-- The error that a state records while `ERR` is set. -/
def errorIs (t : State) (code : BitVec 4) (w : Word) : Bool :=
  t.regs.err && !t.regs.done && t.regs.errCode == code && t.regs.errCmd == w

/-- Some registers at their reset values, two that are not 0 and some that a run has made other than 0. -/
def freshRegs (r : Regs) : Bool :=
  r.strength == 0x100 && r.imgC == 1 && !r.err && r.errCode == 0 && r.errCmd == 0 && r.imgH == 0 && r.payload[0] == 0 && !r.done

/-- One host operation on a state. -/
def step1 (s : State) (op : HostOp) : Outcome := step { s with pending := [op] }

/-! ### Well-formedness: each check refuses an ill-formed term (20_memory.md R62 to R64, V-X3) -/

theorem test_wf_misaligned : (HostOp.regRead 0x002).wf smallCfg = false ∧ (HostOp.regRead 0x061).wf smallCfg = false := by decide

theorem test_wf_beyond_reg : (HostOp.regRead 0x800).wf smallCfg = false := by decide

theorem test_wf_hole_02C : (HostOp.regWrite 0x02C 0#32).wf smallCfg = false := by decide

theorem test_wf_hole_050 : (HostOp.regRead 0x050).wf smallCfg = false ∧ (HostOp.regRead 0x05C).wf smallCfg = false := by decide

theorem test_wf_hole_0B8 : (HostOp.regRead 0x0B8).wf smallCfg = false ∧ (HostOp.regRead 0x0BC).wf smallCfg = false := by decide

theorem test_wf_hole_0E0 : (HostOp.regRead 0x0E0).wf smallCfg = false ∧ (HostOp.regRead 0x3FC).wf smallCfg = false := by decide

theorem test_wf_src_range :
    (HostOp.srcRead 1000).wf smallCfg = false ∧ (HostOp.srcWrite 1000 0#8).wf smallCfg = false ∧
      (HostOp.srcRead 999).wf smallCfg = true := by decide

theorem test_wf_dst_range :
    (HostOp.dstRead 500).wf smallCfg = false ∧ (HostOp.dstWrite 500 0#8).wf smallCfg = false ∧
      (HostOp.dstWrite 499 0#8).wf smallCfg = true := by decide

theorem test_wf_program : programWf smallCfg [.reset, .regRead 0x7FC, .regRead 0x400] = true ∧
    programWf smallCfg [.irqSample, .srcRead 1000] = false := by decide

/-- No term of `Instr` is ill formed: `M` is one bit with both values assigned (30_encoding.md R83). -/
theorem test_wf_instr : (Instr.luma .dst).wf = true ∧ (Instr.detect .src).wf = true := by decide

/-! ### Decoding, words written out bit by bit from 30_encoding.md R81 and R84 -/

theorem test_decode_nop : decode (0b00000000#8 ++ 0#24) = .ok .nop := by decide

theorem test_decode_build : decode (0b00000001#8 ++ 0#24) = .ok .build := by decide

theorem test_decode_embed : decode (0b00000010#8 ++ 0#24) = .ok .embed := by decide

theorem test_decode_luma : decode (0b00000011#8 ++ 0#23 ++ 0b0#1) = .ok (.luma .src) ∧
    decode (0b00000011#8 ++ 0#23 ++ 0b1#1) = .ok (.luma .dst) := by decide

theorem test_decode_thresh : decode (0b00000100#8 ++ 0#24) = .ok .thresh := by decide

theorem test_decode_classify : decode (0b00000101#8 ++ 0#24) = .ok .classify := by decide

theorem test_decode_parse : decode (0b00000110#8 ++ 0#24) = .ok .parse := by decide

theorem test_decode_score : decode (0b00000111#8 ++ 0#24) = .ok .score := by decide

theorem test_decode_detect : decode (0b00001000#8 ++ 0#23 ++ 0b0#1) = .ok (.detect .src) ∧
    decode (0b00001000#8 ++ 0#23 ++ 0b1#1) = .ok (.detect .dst) := by decide

theorem test_decode_srst : decode (0b11111111#8 ++ 0#24) = .ok .srst := by decide

/-- V-X1, the rows that end with an error. -/
theorem test_decode_errors :
    decode 0x00000001#32 = .error .reserved ∧ decode 0x00800000#32 = .error .reserved ∧
      decode 0x01000001#32 = .error .reserved ∧ decode 0x03000002#32 = .error .reserved ∧
      decode 0x03000003#32 = .error .reserved ∧ decode 0x08800000#32 = .error .reserved ∧
      decode 0x09000000#32 = .error .opcode ∧ decode 0x09000001#32 = .error .opcode ∧
      decode 0x7F000000#32 = .error .opcode ∧ decode 0xFE000000#32 = .error .opcode ∧
      decode 0xFFFFFFFF#32 = .error .reserved := by decide

/-! ### Commands -/

theorem test_nop : ends (step1 State.reset (.regWrite 0 0#32)) (fun t => t.regs.done && !t.regs.err && t.regs.errCode == 0 && t.regs.strength == 0x100) = true := by
  decide +kernel

/-- V-B2: stale bytes beyond the length are ignored. -/
theorem test_build_stale :
    ends (exec .build (mk smallCfg { Regs.reset with devLen := 2, devIn := putWord Regs.reset.devIn 0 0xAABBCCDD#32 } []))
      (fun t => t.regs.read (.payload 0) == 0x0000CCDD#32 && t.regs.read (.payload 1) == 0#32 && t.regs.done) = true := by
  decide +kernel

/-- V-B3: a length above 16 acts as 16. -/
theorem test_build_long :
    ends (exec .build (mk smallCfg { Regs.reset with devLen := 65535, devIn := putWord Regs.reset.devIn 3 0x504F4E4D#32 } []))
      (fun t => t.regs.read (.payload 3) == 0x504F4E4D#32 && t.regs.read (.payload 4) == 0#32 && !t.regs.err) = true := by
  decide +kernel

/-- V-B5, last row. -/
theorem test_parse_drops :
    ends (exec .parse (mk smallCfg { Regs.reset with rpayload := bytes32 ([0xFF, 0xFF, 0xFF, 0x7F] ++ List.replicate 12 0xFF) } []))
      (fun t => t.regs.rdevLen == 1 && t.regs.read (.rdev 0) == 0x7F#32 && t.regs.rsesLen == 0) = true := by
  decide +kernel

/-- V-C5: the character cut by the end of the field is lost. -/
theorem test_parse_cut :
    ends (exec .parse (mk smallCfg { Regs.reset with
        rpayload := bytes32 [0x61, 0xCE, 0xB1, 0xCE, 0xB1, 0xCE, 0xB1, 0xCE, 0xB1, 0xCE, 0xB1, 0xCE, 0xB1, 0xCE, 0xB1, 0xCE] } []))
      (fun t => t.regs.rdevLen == 15 && t.regs.read (.rdev 3) == 0x00B1CEB1#32) = true := by
  decide +kernel

/-- V-E6: three channels; pixel (10, 20, 31) in block 0, (200, 100, 50) in block 1. -/
def colourRow : List Byte := (List.replicate 8 [10#8, 20#8, 31#8]).flatten ++ (List.replicate 8 [200#8, 100#8, 50#8]).flatten

def colourState : State :=
  mk smallCfg { imgRegs 8 16 3 0x0100 with payload := bytes32 [2#8] } (List.replicate 8 colourRow).flatten

theorem test_embed_colour :
    ends (exec .embed colourState)
      (fun t => t.readByte .dst 0 == 19#8 && t.readByte .dst 8 == 117#8 && t.readByte .dst 127 == 117#8 &&
        t.dst.length == 128 && t.src == colourState.src) = true := by
  decide +kernel

/-- V-E3: partial blocks, strength 2. -/
theorem test_embed_partial :
    ends (exec .embed (mk smallCfg { imgRegs 10 19 1 0x0200 with payload := bytes32 [1#8] } ((List.range 190).map (BitVec.ofNat 8))))
      (fun t => t.readByte .dst 0 == 2#8 && t.readByte .dst 8 == 6#8 && t.readByte .dst 16 == 16#8 &&
        t.readByte .dst 152 == 152#8) = true := by
  decide +kernel

/-- V-D4: a block is its sum. -/
theorem test_luma_sum :
    ends (exec (.luma .src) (mk smallCfg (imgRegs 8 16 1 0x0100) (255#8 :: List.replicate 127 0#8)))
      (fun t => t.regs.nblk == 2 && t.regs.read (.sum 0) == 255#32 && t.regs.read (.sum 1) == 0#32) = true := by
  decide +kernel

/-- V-D9: `dst` ignores `IMG_C`. -/
theorem test_luma_dst :
    ends (exec (.luma .dst) { mk smallCfg (imgRegs 10 10 2 0x0100) [] with dst := cellsFrom 0 (List.replicate 100 5#8) })
      (fun t => t.regs.nblk == 1 && t.regs.read (.sum 0) == 320#32) = true := by
  decide +kernel

/-- V-D1: the odd count; V-D2: the even count. -/
def oddSums : List Nat := [640, 12800, 1920, 11520, 3200, 3200, 4480, 10240, 5760]

theorem test_thresh_odd :
    ends (exec .thresh (mk smallCfg { Regs.reset with nblk := 9, sum := sums oddSums } []))
      (fun t => t.regs.thr2 == 8960) = true := by
  decide +kernel

theorem test_thresh_even :
    ends (exec .thresh (mk smallCfg { Regs.reset with nblk := 6, sum := sums [6400, 6464, 6336, 6464, 6400, 6528] } []))
      (fun t => t.regs.thr2 == 12864) = true := by
  decide +kernel

/-- V-D1: a block equal to the median is 0. -/
theorem test_classify :
    ends (exec .classify (mk smallCfg { Regs.reset with nblk := 9, sum := sums oddSums, thr2 := 8960 } []))
      (fun t => t.regs.read (.rpayload 0) == 0x0000018A#32 && t.regs.read (.rpayload 1) == 0#32) = true := by
  decide +kernel

/-- V-B5, the row with exactly 128 ones and the one with 129. -/
theorem test_score_tie :
    ends (exec .score (mk smallCfg { Regs.reset with rdevLen := 1, rpayload := bytes32 (List.replicate 16 0xFF) } []))
      (fun t => t.regs.conf == 128 && !t.regs.found) = true := by
  decide +kernel

theorem test_score_found :
    ends (exec .score (mk smallCfg { Regs.reset with rdevLen := 1, rpayload := bytes32 (List.replicate 16 0xFF ++ [1]) } []))
      (fun t => t.regs.conf == 129 && t.regs.found) = true := by
  decide +kernel

/-- Block sums 255 and 0, so `THR2` is 255 and block 0 alone is a 1; by hand from 42_detector.md R163. -/
theorem test_detect :
    ends (exec (.detect .src) (mk smallCfg (imgRegs 8 16 1 0x0100) (255#8 :: List.replicate 127 0#8)))
      (fun t => t.regs.thr2 == 255 && t.regs.read (.rpayload 0) == 1#32 && t.regs.conf == 255 && t.regs.found) = true := by
  decide +kernel

/-- P4: `IMG_H = 0`, `IMG_W = 65535`. -/
theorem test_detect_degenerate :
    ends (exec (.detect .src) (mk smallCfg (imgRegs 0 65535 1 0x0100) []))
      (fun t => t.regs.nblk == 0 && t.regs.conf == 256 && !t.regs.found && t.regs.done) = true := by
  decide +kernel

/-- PRG5, line 14: accepted although `ERR` is set. -/
theorem test_srst :
    ends (step1 (mk smallCfg { Regs.reset with err := true, errCode := 2, payload := bytes32 [7] } [1#8]) (.regWrite 0 0xFF000000#32))
      (fun t => freshRegs t.regs && t.src == [(0, 1#8)]) = true := by
  decide +kernel

/-! ### Errors (V-X2) -/

theorem test_error_order :
    ends (exec .embed (mk smallCfg (imgRegs 100 100 2 0) [])) (fun t => errorIs t 3 0x02000000#32) = true ∧
      ends (exec .embed (mk smallCfg (imgRegs 100 100 3 0) [])) (fun t => errorIs t 4 0x02000000#32) = true ∧
      ends (exec .embed (mk smallCfg (imgRegs 10 10 1 0) [])) (fun t => errorIs t 5 0x02000000#32) = true := by
  decide +kernel

theorem test_error_scan :
    ends (exec (.luma .dst) (mk smallCfg (imgRegs 50 11 7 0) [])) (fun t => errorIs t 4 0x03000001#32) = true ∧
      ends (exec (.detect .src) (mk smallCfg (imgRegs 0 0 9 0) [])) (fun t => errorIs t 3 0x08000000#32) = true := by
  decide +kernel

theorem test_error_words :
    ends (step1 State.reset (.regWrite 0 0x09000000#32)) (fun t => errorIs t 1 0x09000000#32) = true ∧
      ends (step1 State.reset (.regWrite 0 0xFF000001#32)) (fun t => errorIs t 2 0xFF000001#32) = true := by
  decide +kernel

/-- PRG5, lines 5 to 7: dropped. -/
theorem test_dropped :
    ends (step1 (mk smallCfg { Regs.reset with err := true, errCode := 1, errCmd := 0x09000000#32 } []) (.regWrite 0 0xFF000001#32))
      (fun t => errorIs t 1 0x09000000#32) = true := by
  decide +kernel

/-! ### Host operations -/

/-- V-X3: write then read back. -/
theorem test_register_masks :
    (Regs.reset.write 0x12345678#32 .imgH).read .imgH = 0x5678#32 ∧ (Regs.reset.write 0x1FF#32 .imgC).read .imgC = 0xFF#32 ∧
      (Regs.reset.write 0xFFFFFFFF#32 .ie).read .ie = 0x6#32 ∧
      (Regs.reset.write 0xAABBCCDD#32 (.devIn 0)).devIn[0] = 0xDD#8 := by
  decide +kernel

theorem test_register_read : lastReply (step1 State.reset (.regRead 0x020)) = some (.word 0x100#32) ∧
    lastReply (step1 State.reset (.regRead 0x000)) = some (.word 0#32) := by
  decide +kernel

theorem test_refused : refusal (step1 State.reset (.regRead 0x0B8)) = some (.noRegister 0x0B8) ∧
    refusal (step1 (mk smallCfg Regs.reset []) (.srcWrite 1000 0#8)) = some (.srcOutOfRange 1000) ∧
    refusal (step1 (mk smallCfg Regs.reset []) (.dstRead 500)) = some (.dstOutOfRange 500) := by
  decide +kernel

theorem test_src_write_read : lastReply (step1 (mk smallCfg Regs.reset [1#8, 2#8]) (.srcRead 1)) = some (.byte 2#8) ∧
    ends (step1 (mk smallCfg Regs.reset [1#8, 2#8]) (.srcWrite 0 9#8)) (fun t => t.src == [(0, 9#8), (1, 2#8)]) = true := by
  decide +kernel

/-- PRG5, lines 2 and 3. -/
theorem test_irq : lastReply (step1 (mk smallCfg { Regs.reset with done := true, doneIE := true } []) .irqSample) = some (.level true) ∧
    ends (step1 (mk smallCfg { Regs.reset with done := true, err := true } []) (.regWrite 4 2#32))
      (fun t => !t.regs.done && t.regs.err) = true := by
  decide +kernel

theorem test_reset : ends (step1 colourState .reset) (fun t => freshRegs t.regs && t.src == [] && t.dst == []) = true := by
  decide +kernel

/-- The word placed for the next step is what it runs. -/
theorem test_fetch_word : ends (step (State.reset.withFetchWord 32 0x07000000)) (fun t => t.regs.conf == 256 && t.regs.done) = true := by
  decide +kernel

/-! ### Functions -/

/-- V-C9. -/
theorem test_utf8_filter :
    utf8Filter [0x41, 0xC3, 0x42] = [0x41, 0x42] ∧ utf8Filter [0xED, 0xA0, 0x80] = [] ∧
      utf8Filter [0xE0, 0x9F, 0x80] = [] ∧ utf8Filter [0xE0, 0xA0, 0x80] = [0xE0, 0xA0, 0x80] ∧
      utf8Filter [0xF0, 0x8F, 0x80, 0x80] = [] ∧ utf8Filter [0xF4, 0x8F, 0xBF, 0xBF] = [0xF4, 0x8F, 0xBF, 0xBF] ∧
      utf8Filter [0xF4, 0x90, 0x80, 0x80] = [] ∧ utf8Filter [0xC2, 0xA9, 0xC2] = [0xC2, 0xA9] := by
  decide +kernel

theorem test_strip_zeros : stripZeros [0x41, 0, 0x42, 0] = [0x41, 0, 0x42] ∧ stripZeros [0, 0, 0, 0x41, 0] = [0, 0, 0, 0x41] := by
  decide

/-- V-C10. -/
theorem test_bits_to_payload : bitsToPayload [true, false, true] (by decide) = bytes32 [5] ∧
    bitsToPayload (List.replicate 9 true) (by decide) = bytes32 [0xFF, 1] := by
  decide +kernel

/-- V-E1, the rows where the three roundings differ. -/
theorem test_embed_sample :
    embedSample .halfUp 100 (some true) 0x0080 = 101 ∧ embedSample .halfEven 100 (some true) 0x0080 = 100 ∧
      embedSample .truncate 100 (some false) 0x0001 = 99 ∧ embedSample .halfEven 101 (some true) 0x0080 = 102 ∧
      embedSample .halfUp 200 (some false) 0xFFFF = 0 ∧ embedSample .halfEven 100 (some false) 0x0180 = 98 := by
  decide

/-- V-E2. -/
theorem test_reduce : average3 255 255 254 = 254 ∧ average3 200 100 50 = 116 ∧ average3 1 1 0 = 0 := by decide

/-- R131, its first example, and one channel: on images that stand in no memory. -/
theorem test_reduce_image :
    (reduce { h := 1, w := 1, channels := 3, px := fun _ _ ch => [10#8, 20#8, 31#8][ch]?.getD 0#8 }).px 0 0 = 20 ∧
      (reduce { h := 2, w := 5, channels := 1, px := fun r c _ => BitVec.ofNat 8 (16 * r + c) }).px 1 4 = 20 := by decide

/-- R112. -/
theorem test_hex : (hex (bytes32 [0x44, 0x2D])).take 6 = ['4', '4', '2', 'd', '0', '0'] := by decide +kernel

/-- R89, R101: `setid DEV, "é"` stages length 2 and the bytes C3 A9. -/
theorem test_setid : (AsmLine.setidDev ['é']).expand =
    [.regWrite 0x024 2#32, .regWrite 0x030 0x0000A9C3#32, .regWrite 0x034 0#32, .regWrite 0x038 0#32, .regWrite 0x03C 0#32] := by
  decide +kernel

/-! ### Witnesses: for each statement with hypotheses, a concrete state and operands that meet them all, one for each clause
and at the edge of its range -/

/-- A state after reset with registers `r` and one operation still to be issued. -/
def asked (r : Regs) (op : HostOp) : State := { State.resetWith smallCfg with regs := r, pending := [op] }

/-- The registers of an error that is not acknowledged. -/
def erring : Regs := { Regs.reset with err := true, errCode := 5, errCmd := 0x02000000#32 }

/-- A uniform image. -/
def uniform (h w : Nat) (x : Byte) (p : Vector Byte 32) (strength : BitVec 16) : State :=
  mk bigCfg { imgRegs (BitVec.ofNat 16 h) (BitVec.ofNat 16 w) 1 strength with payload := p } (List.replicate (h * w) x)

theorem witness_DecodeAgreesWithEncode : decode 0x08000001#32 = .ok (.detect .dst) ∧ 0x08000001#32 = encode (.detect .dst) := by
  decide

theorem witness_IllegalWordsByClass :
    decode 0x09000000#32 = .error .opcode ∧ decode 0xFEFFFFFF#32 = .error .opcode ∧ decode 0x00000001#32 = .error .reserved ∧
      decode 0x08000002#32 = .error .reserved ∧ decode 0xFFFFFFFF#32 = .error .reserved := by
  decide

theorem witness_StepRunsTheDecodedCommand :
    (asked Regs.reset (.regWrite 0x000 0x03000001#32)).pending = .regWrite 0x000 0x03000001#32 :: [] ∧
      decode 0x03000001#32 = .ok (.luma .dst) := by
  decide

theorem witness_IllegalWordTakesItsError_opcode (w : Word) (_h : w = 0x09000000#32 ∨ w = 0xFEFFFFFF#32) :
    (asked Regs.reset (.regWrite 0x000 w)).pending = .regWrite 0x000 w :: [] ∧ NoError (asked Regs.reset (.regWrite 0x000 w)) ∧
      0x09 ≤ w.toNat / 2 ^ 24 ∧ w.toNat / 2 ^ 24 ≤ 0xFE := by
  refine ⟨rfl, rfl, ?_⟩
  rcases _h with rfl | rfl <;> decide

theorem witness_IllegalWordTakesItsError_reserved (w : Word)
    (_h : w = 0x00000001#32 ∨ w = 0x03000002#32 ∨ w = 0x08000002#32 ∨ w = 0xFF000001#32) :
    (asked Regs.reset (.regWrite 0x000 w)).pending = .regWrite 0x000 w :: [] ∧ NoError (asked Regs.reset (.regWrite 0x000 w)) ∧
      ¬(0x09 ≤ w.toNat / 2 ^ 24 ∧ w.toNat / 2 ^ 24 ≤ 0xFE) ∧
        (if w.toNat / 2 ^ 24 = 0x03 ∨ w.toNat / 2 ^ 24 = 0x08 then 2 else 1) ≤ w.toNat % 2 ^ 24 := by
  refine ⟨rfl, rfl, ?_⟩
  rcases _h with rfl | rfl | rfl | rfl <;> decide

theorem witness_CommandsDroppedWhileErr :
    (asked erring (.regWrite 0x000 0xFF000001#32)).pending = .regWrite 0x000 0xFF000001#32 :: [] ∧
      (asked erring (.regWrite 0x000 0xFF000001#32)).regs.err = true ∧ (0xFF000001#32 : Word) ≠ 0xFF000000#32 := by
  decide

theorem witness_ErrorRecordStaysUntilCleared :
    erring.err = true ∧ ends (step (asked erring (.regWrite 0x000 0#32))) (fun t => errorIs t 5 0x02000000#32) = true ∧
      ends (step (asked erring (.regWrite 0x004 4#32))) (fun t => !t.regs.err && t.regs.errCode == 5) = true ∧
      ends (step (asked erring (.regWrite 0x000 0xFF000000#32))) (fun t => freshRegs t.regs) = true ∧
      ends (step (asked erring .reset)) (fun t => freshRegs t.regs) = true := by
  decide +kernel

/-- The hypotheses of the statements about `NOP`, `BUILD`, `PARSE` and `SCORE`, and of their clauses on reserved words. -/
theorem witness_commands_without_operands :
    NoError State.reset ∧ erring.err = true ∧
      (asked Regs.reset (.regWrite 0x000 0x06000001#32)).pending = .regWrite 0x000 0x06000001#32 :: [] ∧
      NoError (asked Regs.reset (.regWrite 0x000 0x06000001#32)) ∧ (0x06000001#32 : Word).toNat / 2 ^ 24 = 0x06 ∧
      1 ≤ (0x06000001#32 : Word).toNat % 2 ^ 24 := by
  refine ⟨rfl, rfl, rfl, rfl, ?_⟩
  decide

theorem utf8enc_replicate_a (n : Nat) : utf8enc (List.replicate n 'a') = List.replicate n 0x61#8 := by
  induction n with
  | zero => rfl
  | succ n ih =>
    have h : utf8encChar 'a' = [0x61#8] := by decide
    rw [List.replicate_succ, List.replicate_succ, ← ih]
    simp [utf8enc, h]

/-- A device text too long for its length register, and an empty session text. -/
def longText : List Char := List.replicate 65536 'a'

def stagedState : State :=
  { State.reset with regs := { Regs.reset with devLen := 65535, devIn := Vector.replicate 16 0x61#8 } }

theorem witness_BuildMarshalsStagedBytes_texts :
    NoError stagedState ∧ stagedState.regs.devLen.toNat = min (utf8enc longText).length 65535 ∧
      stagedState.regs.sesLen.toNat = min (utf8enc []).length 65535 ∧
      (∀ (i : Nat) (h : i < 16) (hl : i < (utf8enc longText).length), stagedState.regs.devIn[i] = (utf8enc longText)[i]) ∧
      ∀ (i : Nat) (h : i < 16) (hl : i < (utf8enc []).length), stagedState.regs.sesIn[i] = (utf8enc [])[i] := by
  refine ⟨rfl, ?_, rfl, ?_, ?_⟩
  · rw [longText, utf8enc_replicate_a, List.length_replicate]; decide
  · intro i h hl
    have : ∀ (n : Nat) (x : List Byte) (_ : x = List.replicate n 0x61#8) (hx : i < x.length), stagedState.regs.devIn[i] = x[i] := by
      intro n x hx hl'
      subst hx
      simp [stagedState]
    exact this 65536 _ (utf8enc_replicate_a 65536) hl
  · intro i h hl
    exact absurd hl (by simp [utf8enc])

/-- `EMBED`: an illegal channel count. -/
theorem witness_EmbedWritesTheMarkedGrid_channels :
    NoError (mk smallCfg (imgRegs 8 8 2 0x0100) []) ∧ ¬ChannelsLegal (mk smallCfg (imgRegs 8 8 2 0x0100) []) .src := by
  refine ⟨rfl, fun h => ?_⟩
  exact absurd (h rfl) (by decide)

/-- `EMBED`: one byte too many for DST, and one too many for SRC. -/
theorem witness_EmbedWritesTheMarkedGrid_size :
    NoError (mk smallCfg (imgRegs 3 167 1 0) []) ∧ ChannelsLegal (mk smallCfg (imgRegs 3 167 1 0) []) .src ∧
      ImageFits (mk smallCfg (imgRegs 3 167 1 0) []) .src ∧ ¬ImageFits (mk smallCfg (imgRegs 3 167 1 0) []) .dst ∧
      ChannelsLegal (mk smallCfg (imgRegs 2 167 3 0) []) .src ∧ ¬ImageFits (mk smallCfg (imgRegs 2 167 3 0) []) .src ∧
      ImageFits (mk smallCfg (imgRegs 2 167 3 0) []) .dst := by
  refine ⟨rfl, fun _ => ?_, ?_, ?_, fun _ => ?_, ?_, ?_⟩ <;> first | decide | (unfold ImageFits; decide)

/-- `EMBED`: strength 0 on an image that fills DST exactly. -/
theorem witness_EmbedWritesTheMarkedGrid_strength :
    NoError (mk smallCfg (imgRegs 20 25 1 0) []) ∧ ChannelsLegal (mk smallCfg (imgRegs 20 25 1 0) []) .src ∧
      ImageFits (mk smallCfg (imgRegs 20 25 1 0) []) .src ∧ ImageFits (mk smallCfg (imgRegs 20 25 1 0) []) .dst ∧
      (mk smallCfg (imgRegs 20 25 1 0) []).regs.strength = 0#16 := by
  refine ⟨rfl, fun _ => ?_, ?_, ?_, ?_⟩ <;> first | decide | (unfold ImageFits; decide)

/-- `EMBED` that succeeds, strength 2^(-8), on an image that fills DST exactly; twice in a row. -/
theorem witness_EmbedWritesTheMarkedGrid_success :
    NoError (mk smallCfg (imgRegs 20 25 1 1) []) ∧ ChannelsLegal (mk smallCfg (imgRegs 20 25 1 1) []) .src ∧
      ImageFits (mk smallCfg (imgRegs 20 25 1 1) []) .src ∧ ImageFits (mk smallCfg (imgRegs 20 25 1 1) []) .dst ∧
      (mk smallCfg (imgRegs 20 25 1 1) []).regs.strength ≠ 0#16 := by
  refine ⟨rfl, fun _ => ?_, ?_, ?_, ?_⟩ <;> first | decide | (unfold ImageFits; decide)

theorem witness_EmbeddingTwiceIsEmbeddingOnce :
    NoError colourState ∧ ChannelsLegal colourState .src ∧ ImageFits colourState .src ∧ ImageFits colourState .dst ∧
      colourState.regs.strength ≠ 0#16 := by
  refine ⟨rfl, fun _ => ?_, ?_, ?_, ?_⟩ <;> first | decide +kernel | (unfold ImageFits; decide +kernel)

/-- Seven rows are no block row. -/
theorem witness_SmallImagesAreCopied :
    NoError (mk smallCfg (imgRegs 7 20 1 1) []) ∧ ChannelsLegal (mk smallCfg (imgRegs 7 20 1 1) []) .src ∧
      ImageFits (mk smallCfg (imgRegs 7 20 1 1) []) .src ∧ ImageFits (mk smallCfg (imgRegs 7 20 1 1) []) .dst ∧
      (mk smallCfg (imgRegs 7 20 1 1) []).regs.strength ≠ 0#16 ∧ (mk smallCfg (imgRegs 7 20 1 1) []).regs.imgH.toNat < 8 := by
  refine ⟨rfl, fun _ => ?_, ?_, ?_, ?_, ?_⟩ <;> first | decide | (unfold ImageFits; decide)

/-- The scanning commands on SRC: an illegal channel count, one byte too many, and an image that fills SRC exactly. -/
theorem witness_scan_src :
    NoError (mk smallCfg (imgRegs 8 8 0 0) []) ∧ ¬ChannelsLegal (mk smallCfg (imgRegs 8 8 0 0) []) .src ∧
      ChannelsLegal (mk smallCfg (imgRegs 7 143 1 0) []) .src ∧ ¬ImageFits (mk smallCfg (imgRegs 7 143 1 0) []) .src ∧
      ChannelsLegal (mk smallCfg (imgRegs 25 40 1 0) []) .src ∧ ImageFits (mk smallCfg (imgRegs 25 40 1 0) []) .src := by
  refine ⟨rfl, fun h => absurd (h rfl) (by decide), fun _ => ?_, ?_, fun _ => ?_, ?_⟩ <;>
    first | decide | (unfold ImageFits; decide)

/-- The scanning commands on DST: one byte too many, and an image that fills DST exactly, its `IMG_C` illegal for SRC. -/
theorem witness_scan_dst :
    NoError (mk smallCfg (imgRegs 3 167 7 0) []) ∧ ChannelsLegal (mk smallCfg (imgRegs 3 167 7 0) []) .dst ∧
      ¬ImageFits (mk smallCfg (imgRegs 3 167 7 0) []) .dst ∧ ChannelsLegal (mk smallCfg (imgRegs 20 25 7 0) []) .dst ∧
      ImageFits (mk smallCfg (imgRegs 20 25 7 0) []) .dst := by
  refine ⟨rfl, fun h => (by cases h), ?_, fun h => (by cases h), ?_⟩ <;> (unfold ImageFits; decide)

/-- A scanned image with no complete block: rows that are too few, and columns that are too few. -/
theorem witness_DegenerateImageIsNotFound :
    NoError (mk smallCfg (imgRegs 7 71 1 0) []) ∧ ChannelsLegal (mk smallCfg (imgRegs 7 71 1 0) []) .dst ∧
      ImageFits (mk smallCfg (imgRegs 7 71 1 0) []) .dst ∧ (mk smallCfg (imgRegs 7 71 1 0) []).regs.imgH.toNat < 8 ∧
      ImageFits (mk smallCfg (imgRegs 71 7 1 0) []) .dst ∧ (mk smallCfg (imgRegs 71 7 1 0) []).regs.imgW.toNat < 8 := by
  refine ⟨rfl, fun h => (by cases h), ?_, ?_, ?_, ?_⟩ <;> first | decide | (unfold ImageFits; decide)

/-- `THRESH` and `CLASSIFY`: the largest `NBLK`, and none. -/
theorem witness_nblk :
    NoError (mk smallCfg { Regs.reset with nblk := 256 } []) ∧ (mk smallCfg { Regs.reset with nblk := 256 } []).regs.nblk.toNat ≤ 256 ∧
      State.reset.regs.nblk.toNat ≤ 256 := by
  refine ⟨rfl, ?_, ?_⟩ <;> decide

theorem witness_HardwareResetFromAnyState : (asked erring .reset).pending = .reset :: [] := rfl

theorem witness_RegisterMapIsOneToOne : regAt 0x000 = some .cmd ∧ regAt 0x7FC = some (.sum 255) ∧ regOffset (.sum 255) = 0x7FC := by
  decide +kernel

/-- The read-write registers, the first and last word of each array among them. -/
theorem witness_RegisterWriteReadsBack (q : Reg)
    (_h : q ∈ [.ie, .imgH, .imgW, .imgC, .strength, .devLen, .sesLen, .devIn 0, .devIn 3, .sesIn 0, .sesIn 3, .payload 0, .payload 7,
      .rpayload 0, .rpayload 7]) :
    regAccess q = .rw ∧
      (asked Regs.reset (.regWrite (regOffset q) 0xFFFFFFFF#32)).pending = .regWrite (regOffset q) 0xFFFFFFFF#32 :: [] := by
  refine ⟨?_, rfl⟩
  revert q
  decide

/-- The read-only registers, the same. -/
theorem witness_ReadOnlyWritesChangeNothing (q : Reg)
    (_h : q ∈ [.errCode, .errCmd, .nblk, .thr2, .conf, .found, .rdevLen, .rsesLen, .rdev 0, .rdev 3, .rses 0, .rses 3, .sum 0,
      .sum 255]) :
    regAccess q = .ro ∧
      (asked Regs.reset (.regWrite (regOffset q) 0xFFFFFFFF#32)).pending = .regWrite (regOffset q) 0xFFFFFFFF#32 :: [] := by
  refine ⟨?_, rfl⟩
  revert q
  decide

theorem witness_RegisterReadsAreHarmless :
    (asked erring (.regRead (regOffset .errCmd))).pending = .regRead (regOffset .errCmd) :: [] := rfl

theorem witness_StatusIsWriteOneToClear : (asked erring (.regWrite 0x004 6#32)).pending = .regWrite 0x004 6#32 :: [] := rfl

theorem witness_InterruptLevel : (asked { erring with errIE := true } .irqSample).pending = .irqSample :: [] := rfl

/-- The four accesses, each at the last installed byte. -/
theorem witness_HostMemoryAccess :
    (asked Regs.reset (.srcWrite 999 1#8)).src.wf ∧ 999 < (asked Regs.reset (.srcWrite 999 1#8)).cfg.srcSize ∧
      (asked Regs.reset (.srcWrite 999 1#8)).pending = .srcWrite 999 1#8 :: [] ∧
      (asked Regs.reset (.dstWrite 499 1#8)).dst.wf ∧ 499 < (asked Regs.reset (.dstWrite 499 1#8)).cfg.dstSize ∧
      (asked Regs.reset (.dstWrite 499 1#8)).pending = .dstWrite 499 1#8 :: [] ∧
      (asked Regs.reset (.srcRead 999)).pending = .srcRead 999 :: [] ∧ (asked Regs.reset (.dstRead 499)).pending = .dstRead 499 :: [] := by
  decide

theorem witness_StepRefusesExactlyIllFormedAccess :
    (asked Regs.reset (.srcRead 1000)).pending = .srcRead 1000 :: [] ∧ (HostOp.srcRead 1000).wf smallCfg = false ∧
      (asked Regs.reset (.srcRead 999)).pending = .srcRead 999 :: [] ∧ (HostOp.srcRead 999).wf smallCfg = true := by
  decide

theorem witness_WellFormedProgramsRunToTheEnd :
    PendingWf { State.resetWith smallCfg with
      pending := [.regWrite 0x000 0x09000000#32, .srcWrite 999 1#8, .regRead 0x7FC, .reset, .irqSample] } := by
  unfold PendingWf; decide

theorem witness_PayloadWordsAreTheBitSequence : (31 : Nat) < 32 := by decide

theorem witness_BitMappingsAreInverse :
    ([] : List Bool).length ≤ 256 ∧ (List.replicate 256 true).length ≤ 256 := by
  decide +kernel

theorem witness_WfLenRecognisesEncodedScalars :
    utf8encChar 'é' <+: ([0x41, 0xC3, 0xA9] : List Byte).drop 1 ∧ 0 < wfLen [0x41, 0xC3, 0xA9] 1 := by
  decide

theorem witness_IdentifiersSurviveThePayload :
    (List.replicate 16 0x61#8).length ≤ 16 ∧ IsUtf8 (List.replicate 16 0x61#8) ∧
      (List.replicate 16 0x61#8).getLast? ≠ some 0#8 := by
  refine ⟨by decide, ⟨List.replicate 16 'a', utf8enc_replicate_a 16⟩, by decide⟩

theorem witness_EmbedSampleIsExact : (0x0001#16 ≠ 0#16) ∧ (0xFFFF#16 ≠ 0#16) ∧ (0x0080#16 ≠ 0#16) := by decide

theorem witness_IntegerStrengthNeedsNoRounding : (0x0000#16).toNat % 256 = 0 ∧ (0xFF00#16).toNat % 256 = 0 := by decide

/-- An odd count, an even one, and none. -/
theorem witness_MedianOfAnySortedArrangement :
    ([1, 2, 3] : List Nat).Perm [3, 1, 2] ∧ ([1, 2, 3] : List Nat).Pairwise (· ≤ ·) ∧ ([1, 1] : List Nat).Perm [1, 1] ∧
      ([1, 1] : List Nat).Pairwise (· ≤ ·) ∧ ([] : List Nat).Perm [] ∧ ([] : List Nat).Pairwise (· ≤ ·) ∧
      ∀ v ∈ ([16320, 0] : List Nat), v ≤ 16320 := by
  decide

/-- A word with the `OP` of `SRST` that is not `SRST`, while `ERR` is 1. -/
theorem witness_SrstResetsTheRegisters_dropped :
    (asked erring (.regWrite 0x000 0xFF000001#32)).regs.err = true ∧ (0xFF000001#32 : Word).toNat / 2 ^ 24 = 0xFF ∧
      1 ≤ (0xFF000001#32 : Word).toNat % 2 ^ 24 := by
  decide

theorem witness_ConfidenceRange : (List.replicate 256 true).length = 256 ∧ (List.replicate 256 false).length = 256 := by
  decide +kernel

/-- What the image commands read of a uniform image's state. -/
theorem uniform_facts (h w : Nat) (x : Byte) (p : Vector Byte 32) (S : BitVec 16) :
    (uniform h w x p S).regs.imgH = BitVec.ofNat 16 h ∧ (uniform h w x p S).regs.imgW = BitVec.ofNat 16 w ∧
      (uniform h w x p S).regs.imgC = 1#8 ∧ (uniform h w x p S).cfg = bigCfg ∧
      (uniform h w x p S).mem .src = cellsFrom 0 (List.replicate (h * w) x) := ⟨rfl, rfl, rfl, rfl, rfl⟩

theorem uniform_fits (h w : Nat) (x : Byte) (p : Vector Byte 32) (S : BitVec 16)
    (hs : (BitVec.ofNat 16 h).toNat * (BitVec.ofNat 16 w).toNat ≤ 16448) (m : Space) : ImageFits (uniform h w x p S) m := by
  obtain ⟨h1, h2, h3, h4, -⟩ := uniform_facts h w x p S
  unfold ImageFits
  rw [h1, h2, h3, h4]
  cases m
  · show _ ≤ 49152
    have : (1#8).toNat = 1 := rfl
    rw [this]
    omega
  · exact hs

theorem uniform_blocks (h w : Nat) (x : Byte) (p : Vector Byte 32) (S : BitVec 16) :
    blockCount (uniform h w x p S) = (BitVec.ofNat 16 h).toNat / 8 * ((BitVec.ofNat 16 w).toNat / 8) := by
  obtain ⟨h1, h2, -, -, -⟩ := uniform_facts h w x p S
  rw [blockCount, h1, h2]

theorem uniform_sample {h w : Nat} {x : Byte} {p : Vector Byte 32} {S : BitVec 16} (hw : w < 2 ^ 16) {r c : Nat} (hr : r < h)
    (hc : c < w) : sampleOf (uniform h w x p S) .src r c = x.toNat := by
  obtain ⟨-, h2, h3, -, h5⟩ := uniform_facts h w x p S
  have h1 : (BitVec.ofNat 16 w).toNat = w := by simp only [BitVec.toNat_ofNat]; omega
  have h6 : r * w + c < h * w :=
    calc r * w + c < r * w + w := by omega
      _ = (r + 1) * w := by ring
      _ ≤ h * w := Nat.mul_le_mul_right w hr
  unfold sampleOf State.readByte
  simp only [h2, h3, h1, h5, Memory.get?_cellsFrom]
  simp [h6]

/-- Payloads with 127, 128 and 129 one bits. -/
def payload127 : Vector Byte 32 := bytes32 (List.replicate 15 0xFF#8 ++ [0x7F#8])
def payload128 : Vector Byte 32 := bytes32 (List.replicate 16 0xFF#8)
def payload129 : Vector Byte 32 := bytes32 (List.replicate 16 0xFF#8 ++ [0x80#8])

/-- 128 by 128 pixels of value 128 at strength 127, the clip's edge; one payload for each of the three cases. -/
theorem witness_UniformRoundTrip (p : Vector Byte 32) :
    NoError (uniform 128 128 128#8 p 0x7F00#16) ∧ ChannelsLegal (uniform 128 128 128#8 p 0x7F00#16) .src ∧
      ImageFits (uniform 128 128 128#8 p 0x7F00#16) .src ∧ ImageFits (uniform 128 128 128#8 p 0x7F00#16) .dst ∧
      256 ≤ blockCount (uniform 128 128 128#8 p 0x7F00#16) ∧
      (∀ r c : Nat, r < (uniform 128 128 128#8 p 0x7F00#16).regs.imgH.toNat →
        c < (uniform 128 128 128#8 p 0x7F00#16).regs.imgW.toNat → sampleOf (uniform 128 128 128#8 p 0x7F00#16) .src r c = 128) ∧
      1 ≤ 127 ∧ (uniform 128 128 128#8 p 0x7F00#16).regs.strength.toNat = 256 * 127 ∧ 127 ≤ 128 ∧ 128 + 127 ≤ 255 := by
  refine ⟨rfl, fun _ => .inl rfl, uniform_fits _ _ _ _ _ (by decide) _, uniform_fits _ _ _ _ _ (by decide) _, ?_,
    fun r c hr hc => uniform_sample (x := 128#8) (by decide) hr hc, by decide, rfl, by decide, by decide⟩
  rw [uniform_blocks]
  decide

theorem witness_UniformRoundTrip_clauses :
    onesBelow payload127 256 = 127 ∧ onesBelow payload128 256 = 128 ∧ onesBelow payload129 256 = 129 := by
  decide +kernel

/-- Two blocks, the same edge; half of the first two payload bits ones, and both. -/
theorem witness_SmallUniformRoundTrip (p : Vector Byte 32) :
    NoError (uniform 8 16 128#8 p 0x7F00#16) ∧ ChannelsLegal (uniform 8 16 128#8 p 0x7F00#16) .src ∧
      ImageFits (uniform 8 16 128#8 p 0x7F00#16) .src ∧ ImageFits (uniform 8 16 128#8 p 0x7F00#16) .dst ∧
      blockCount (uniform 8 16 128#8 p 0x7F00#16) < 256 ∧
      (∀ r c : Nat, r < (uniform 8 16 128#8 p 0x7F00#16).regs.imgH.toNat →
        c < (uniform 8 16 128#8 p 0x7F00#16).regs.imgW.toNat → sampleOf (uniform 8 16 128#8 p 0x7F00#16) .src r c = 128) ∧
      (uniform 8 16 128#8 p 0x7F00#16).regs.strength.toNat = 256 * 127 := by
  refine ⟨rfl, fun _ => .inl rfl, uniform_fits _ _ _ _ _ (by decide) _, uniform_fits _ _ _ _ _ (by decide) _, ?_,
    fun r c hr hc => uniform_sample (x := 128#8) (by decide) hr hc, rfl⟩
  rw [uniform_blocks]
  decide

theorem witness_SmallUniformRoundTrip_clauses :
    onesBelow (bytes32 [1]) 2 = 1 ∧ onesBelow (bytes32 [3]) 2 = 2 ∧ onesBelow (bytes32 []) 2 = 0 := by
  decide +kernel

/-- Block 0 carries a 1 and block 1 a 0; strength and samples at the clip's edge. -/
theorem witness_EmbedMovesBlockSums (k : Nat) (hk : k < 2) :
    NoError (uniform 8 16 128#8 (bytes32 [1]) 0x7F00#16) ∧ ChannelsLegal (uniform 8 16 128#8 (bytes32 [1]) 0x7F00#16) .src ∧
      ImageFits (uniform 8 16 128#8 (bytes32 [1]) 0x7F00#16) .src ∧ ImageFits (uniform 8 16 128#8 (bytes32 [1]) 0x7F00#16) .dst ∧
      0 < 127 ∧ (uniform 8 16 128#8 (bytes32 [1]) 0x7F00#16).regs.strength.toNat = 256 * 127 ∧
      k < blockCount (uniform 8 16 128#8 (bytes32 [1]) 0x7F00#16) ∧
      (∀ i j : Nat, i < 8 → j < 8 →
        127 ≤ sampleOf (uniform 8 16 128#8 (bytes32 [1]) 0x7F00#16) .src (8 * (k / 2) + i) (8 * (k % 2) + j) ∧
          sampleOf (uniform 8 16 128#8 (bytes32 [1]) 0x7F00#16) .src (8 * (k / 2) + i) (8 * (k % 2) + j) + 127 ≤ 255) ∧
      (payloadToBits (bytes32 [1]))[0]? = some true ∧ (payloadToBits (bytes32 [1]))[1]? = some false := by
  refine ⟨rfl, fun _ => .inl rfl, uniform_fits _ _ _ _ _ (by decide) _, uniform_fits _ _ _ _ _ (by decide) _, by decide, rfl,
    by rw [uniform_blocks]; exact hk, ?_, by decide +kernel, by decide +kernel⟩
  intro i j hi hj
  rw [uniform_sample (by decide) (by omega) (by omega)]
  decide

/-- Two images of 8 by 9 pixels that differ in the column outside the one block. -/
theorem witness_LumaReadsOnlyScannedBlocks :
    let s := uniform 8 9 5#8 (bytes32 []) 0x0100#16
    let s' := { s with src := s.src.put 8 6#8 }
    s'.regs = s.regs ∧ NoError s ∧ ChannelsLegal s .src ∧ ImageFits s .src ∧ ImageFits s' .src ∧
      (∀ r c : Nat, r < 8 * (s.regs.imgH.toNat / 8) → c < 8 * (s.regs.imgW.toNat / 8) →
        r / 8 * (s.regs.imgW.toNat / 8) + c / 8 < 256 → sampleOf s' .src r c = sampleOf s .src r c) ∧ s' ≠ s := by
  intro s s'
  have fits : ImageFits s .src := uniform_fits _ _ _ _ _ (by decide) _
  refine ⟨rfl, rfl, fun _ => .inl rfl, fits, fits, ?_, fun h => ?_⟩
  · have h : ∀ r < 8 * (s.regs.imgH.toNat / 8), ∀ c < 8 * (s.regs.imgW.toNat / 8),
        sampleOf s' .src r c = sampleOf s .src r c := by decide +kernel
    exact fun r c hr hc _ => h r hr c hc
  · have h1 : s'.src.get? 8 = s.src.get? 8 := by rw [h]
    revert h1
    decide +kernel

/-- Two states with the same image that differ in `PAYLOAD`, `STRENGTH`, `DONE` and the other memory. -/
theorem witness_DetectionIsIndependentOfTheEmbedder :
    let s := uniform 8 9 5#8 (bytes32 []) 0x0100#16
    let s' := { s with dst := [(0, 1#8)], regs := { s.regs with payload := bytes32 [1], strength := 0#16, done := true } }
    NoError s ∧ NoError s' ∧ ChannelsLegal s .src ∧ ImageFits s .src ∧ s'.regs.imgH = s.regs.imgH ∧ s'.regs.imgW = s.regs.imgW ∧
      s'.regs.imgC = s.regs.imgC ∧ s'.cfg = s.cfg ∧ s'.resets = s.resets ∧ s'.mem .src = s.mem .src := by
  intro s s'
  exact ⟨rfl, rfl, fun _ => .inl rfl, uniform_fits _ _ _ _ _ (by decide) _, rfl, rfl, rfl, rfl, rfl, rfl⟩

/-- Each way to change `PAYLOAD`: `BUILD`, `SRST`, reset, and the host's write of its last word. -/
theorem witness_OnlyTheseWriteThePayload :
    ends (step (asked { Regs.reset with payload := bytes32 [1] } (.regWrite 0x000 0x01000000#32))) (fun t => t.regs.payload != bytes32 [1]) = true ∧
      ends (step (asked { Regs.reset with payload := bytes32 [1] } (.regWrite 0x000 0xFF000000#32))) (fun t => t.regs.payload != bytes32 [1]) = true ∧
      ends (step (asked { Regs.reset with payload := bytes32 [1] } .reset)) (fun t => t.regs.payload != bytes32 [1]) = true ∧
      ends (step (asked { Regs.reset with payload := bytes32 [1] } (.regWrite 0x07C 5#32))) (fun t => t.regs.payload != bytes32 [1]) = true := by
  decide +kernel

/-- Each way to change the memories. -/
theorem witness_OnlyTheseWriteTheMemories :
    ends (step { colourState with pending := [.regWrite 0x000 0x02000000#32] }) (fun t => t.dst != colourState.dst) = true ∧
      ends (step { colourState with pending := [.dstWrite 499 1#8] }) (fun t => t.dst != colourState.dst) = true ∧
      ends (step { colourState with pending := [.srcWrite 0 1#8] }) (fun t => t.src != colourState.src) = true ∧
      ends (step { colourState with pending := [.reset] }) (fun t => t.src != colourState.src) = true := by
  decide +kernel

/-- A state in the middle of a run: an error is recorded, a scan has left its results, and SRC is not empty. -/
theorem witness_StepKeepsInvariant :
    let r := { erring with nblk := 1, sum := sums [16320], thr2 := 32640, conf := 256, rdevLen := 1, rdev := bytes16 [0x61#8] }
    StateInv { mk smallCfg r [1#8] with pending := [.regWrite 0x004 4#32] } ∧
      ends (step { mk smallCfg r [1#8] with pending := [.regWrite 0x004 4#32] }) (fun t => !t.regs.err) = true := by
  intro r
  refine ⟨?_, by decide +kernel⟩
  constructor
  · constructor
    · decide
    · exact fun _ => by decide
    · decide
    · intro k h
      show ((sums [16320])[k]).toNat ≤ 16320
      rw [sums, Vector.getElem_ofFn]
      cases k <;> simp
    · intro k h hk
      show (sums [16320])[k] = 0#14
      rw [sums, Vector.getElem_ofFn]
      cases k
      · exact absurd hk (by decide)
      · simp
    · decide
    · exact .inr (by decide)
    · exact fun h => (by cases h)
    · exact ⟨by decide, ⟨['a'], by decide +kernel⟩, by decide +kernel⟩
    · exact ⟨by decide, ⟨[], by decide +kernel⟩, by decide +kernel⟩
  · refine ⟨by decide +kernel, fun c hc => ?_⟩
    have : c = (0, 1#8) := by simpa [mk, cellsFrom] using hc
    subst this
    decide
  · exact ⟨by decide +kernel, fun c hc => absurd hc (by simp [mk, State.resetWith])⟩
  · decide

end Sys2Proof.Tests
end

section
/-! SUPPORT AND PROOFS. The register space: the map of offsets (10_state.md R24), the words of the registers (R23, R25),
and what one register access does. -/

namespace Sys2Proof.Machine

/-! ### The register map (10_state.md R24, 20_memory.md R63) -/

theorem arrayAt_elem {base n : Nat} (mk : Fin n → Reg) (j : Fin n) :
    arrayAt base n (base + 4 * j.val) mk = some (mk j) := by
  unfold arrayAt
  rw [dif_pos ⟨by omega, by omega⟩]
  congr 2
  simp

/-- From 0x0E0 on the map holds `SUM` alone. -/
theorem regRow_of_ge {off : Nat} (h : 0x0E0 ≤ off) : regRow off = arrayAt 0x400 256 off .sum := by
  unfold regRow
  rw [if_neg (by omega), if_neg (by omega), if_neg (by omega), if_neg (by omega), if_neg (by omega), if_neg (by omega),
    if_neg (by omega), if_neg (by omega)]

/-- Every register is found at its offset. -/
theorem regAt_regOffset (r : Reg) : regAt (regOffset r) = some r := by
  cases r with
  | devIn j => revert j; decide
  | sesIn j => revert j; decide
  | payload j => revert j; decide
  | rpayload j => revert j; decide
  | rdev j => revert j; decide
  | rses j => revert j; decide
  | sum k => rw [regAt, regOffset, if_pos (by omega), regRow_of_ge (by omega), arrayAt_elem]
  | _ => rfl

/-- The 224 offsets below 0x0E0, one by one. -/
theorem regAt_below : ∀ off < 0x0E0,
    (regAt off).isSome = regOffsetWf off ∧ ∀ r ∈ regAt off, regOffset r = off := by
  decide +kernel

/-- What R63 leaves from 0x0E0 on. -/
theorem regOffsetWf_iff_of_ge {off : Nat} (h : 0x0E0 ≤ off) :
    regOffsetWf off = true ↔ off % 4 = 0 ∧ 0x400 ≤ off ∧ off < 0x800 := by
  simp only [regOffsetWf, Bool.and_eq_true, Bool.not_eq_true', Bool.and_eq_false_iff, beq_iff_eq, beq_eq_false_iff_ne,
    decide_eq_true_eq, decide_eq_false_iff_not]
  omega

/-- From 0x0E0 on: the aligned offsets of the 256 words of `SUM`. -/
theorem regAt_above {off : Nat} (h : 0x0E0 ≤ off) :
    (regAt off).isSome = regOffsetWf off ∧ ∀ r ∈ regAt off, regOffset r = off := by
  unfold regAt
  rw [regRow_of_ge h]
  unfold arrayAt
  split_ifs with ha hb
  · have hwf : regOffsetWf off = true := (regOffsetWf_iff_of_ge h).2 (by omega)
    refine ⟨hwf.symm, fun r hr => ?_⟩
    cases hr
    simp only [regOffset]
    omega
  all_goals
    have hwf : regOffsetWf off = false := Bool.eq_false_iff.2 fun e => by
      have := (regOffsetWf_iff_of_ge h).1 e
      omega
    exact ⟨hwf.symm, fun r hr => nomatch hr⟩

/-- An offset holds a register exactly when R63 does not exclude it. -/
theorem regAt_isSome (off : Nat) : (regAt off).isSome = regOffsetWf off := by
  rcases Nat.lt_or_ge off 0x0E0 with h | h
  · exact (regAt_below off h).1
  · exact (regAt_above h).1

/-- A register is found nowhere but at its offset. -/
theorem regOffset_of_regAt {off : Nat} {r : Reg} (h : regAt off = some r) : regOffset r = off := by
  rcases Nat.lt_or_ge off 0x0E0 with hlo | hhi
  · exact (regAt_below off hlo).2 r h
  · exact (regAt_above hhi).2 r h

/-- Settles O21: the offsets below 0x0E0 one by one, the words of `SUM` above them. -/
theorem registerMapIsOneToOne : Obligations.RegisterMapIsOneToOne :=
  ⟨regAt_regOffset, fun _ _ => regOffset_of_regAt, regAt_isSome⟩

/-! ### Register words (10_state.md R23 to R25) -/

/-- A mask of the low `n` bits keeps a word's low `n` bits. -/
theorem and_lowMask {n : Nat} {m : Word} (hm : m.toNat = 2 ^ n - 1) (v : Word) :
    v &&& m = (v.setWidth n).setWidth 32 := by
  apply BitVec.eq_of_toNat_eq
  have hv : v.toNat % 2 ^ n < 2 ^ 32 := Nat.lt_of_le_of_lt (Nat.mod_le _ _) v.isLt
  rw [BitVec.toNat_and, hm, Nat.and_two_pow_sub_one_eq_mod, BitVec.toNat_setWidth, BitVec.toNat_setWidth,
    Nat.mod_eq_of_lt hv]

/-- A narrow register as read has only bits that its mask defines. -/
theorem setWidth_and_lowMask {n : Nat} (hn : n ≤ 32) {m : Word} (hm : m.toNat = 2 ^ n - 1) (x : BitVec n) :
    x.setWidth 32 &&& m = x.setWidth 32 := by
  rw [and_lowMask hm, BitVec.setWidth_setWidth_of_le _ hn, BitVec.setWidth_eq]

@[simp] theorem wordAt_replicate_zero (n j : Nat) : wordAt (Vector.replicate n 0#8) j = 0#32 := by
  have h : ∀ i, (Vector.replicate n 0#8)[i]?.getD 0#8 = 0#8 := fun i => by
    rw [Vector.getElem?_replicate]
    split <;> rfl
  simp only [wordAt, h]
  rfl

/-- The word of two flags, as `STATUS` and `IE` lay them out in bits 2 and 1 (R26, R27). -/
def flagWord (hi lo : Bool) : Word := 0#29 ++ bit1 hi ++ bit1 lo ++ 0#1

theorem Regs.statusWord_eq (r : Regs) : r.statusWord = flagWord r.err r.done := rfl

theorem Regs.ieWord_eq (r : Regs) : r.ieWord = flagWord r.errIE r.doneIE := rfl

theorem flagWord_toNat : ∀ hi lo : Bool, (flagWord hi lo).toNat = 4 * hi.toNat + 2 * lo.toNat := by decide

theorem flagWord_getLsbD : ∀ (hi lo : Bool), ∀ k < 32,
    (flagWord hi lo).getLsbD k = (decide (k = 1) && lo || decide (k = 2) && hi) := by decide

/-- Bits 1 and 2 of a word, as a write of `IE` stores them. -/
theorem flagWord_bits (v : Word) : flagWord (v.getLsbD 2) (v.getLsbD 1) = v &&& 0x6#32 := by
  apply BitVec.eq_of_getLsbD_eq
  intro k hk
  have hmask : (0x6#32).getLsbD k = (decide (k = 1) || decide (k = 2)) := by revert k; decide
  rw [flagWord_getLsbD _ _ k hk, BitVec.getLsbD_and, hmask]
  by_cases h1 : k = 1
  · subst h1; simp
  · by_cases h2 : k = 2
    · subst h2; simp
    · simp [h1, h2]

/-- A register as read has only defined bits. -/
theorem Regs.read_and_regBits (r : Regs) (q : Reg) : r.read q &&& regBits q = r.read q := by
  cases q with
  | cmd => exact BitVec.zero_and
  | status =>
    show r.statusWord &&& 0x7#32 = r.statusWord
    rw [Regs.statusWord_eq]
    cases r.err <;> cases r.done <;> rfl
  | ie =>
    show r.ieWord &&& 0x6#32 = r.ieWord
    rw [Regs.ieWord_eq]
    cases r.errIE <;> cases r.doneIE <;> rfl
  | errCode | imgH | imgW | imgC | strength | devLen | sesLen | nblk | thr2 | conf | found | rdevLen | rsesLen =>
    exact setWidth_and_lowMask (by decide) (by rfl) _
  | sum k => exact setWidth_and_lowMask (by decide) (by rfl) _
  | errCmd => exact BitVec.and_allOnes
  | devIn j | sesIn j | payload j | rpayload j | rdev j | rses j => exact BitVec.and_allOnes

/-- The bits that the map does not define read 0. -/
theorem Regs.read_undefined (r : Regs) (q : Reg) : r.read q &&& ~~~regBits q = 0#32 := by
  rw [← Regs.read_and_regBits, BitVec.and_assoc, BitVec.and_not_self]
  exact BitVec.and_zero

theorem Regs.read_reset (q : Reg) : Regs.reset.read q = regResetWord q := by
  cases q with
  | devIn j | sesIn j | payload j | rpayload j | rdev j | rses j => exact wordAt_replicate_zero _ _
  | sum k =>
    show (Vector.replicate 256 0#14)[k].setWidth 32 = 0#32
    simp
  | _ => rfl

/-- A read-write register reads back the defined bits of what was written. -/
theorem Regs.read_write_same {q : Reg} (h : regAccess q = .rw) (r : Regs) (v : Word) :
    (r.write v q).read q = v &&& regBits q := by
  cases q with
  | ie => exact (Regs.ieWord_eq _).trans (flagWord_bits v)
  | imgH | imgW | imgC | strength | devLen | sesLen => exact (and_lowMask (by rfl) v).symm
  | devIn j | sesIn j | payload j | rpayload j =>
    exact (wordAt_putWord_same _ _ _ (by omega)).trans BitVec.and_allOnes.symm
  | _ => cases h

/-- A write of a read-write register leaves how every other register reads. -/
theorem Regs.read_write_ne {p q : Reg} (h : regAccess q = .rw) (hne : p ≠ q) (r : Regs) (v : Word) :
    (r.write v q).read p = r.read p := by
  cases q with
  | ie | imgH | imgW | imgC | strength | devLen | sesLen =>
    cases p <;> first | rfl | exact absurd rfl hne
  | devIn j => cases p with
    | devIn k => exact wordAt_putWord_ne _ _ _ _ (by omega) fun e => hne (by rw [Fin.ext e])
    | _ => rfl
  | sesIn j => cases p with
    | sesIn k => exact wordAt_putWord_ne _ _ _ _ (by omega) fun e => hne (by rw [Fin.ext e])
    | _ => rfl
  | payload j => cases p with
    | payload k => exact wordAt_putWord_ne _ _ _ _ (by omega) fun e => hne (by rw [Fin.ext e])
    | _ => rfl
  | rpayload j => cases p with
    | rpayload k => exact wordAt_putWord_ne _ _ _ _ (by omega) fun e => hne (by rw [Fin.ext e])
    | _ => rfl
  | _ => cases h

/-- A write of a read-only register changes no register. -/
theorem Regs.write_readOnly {q : Reg} (h : regAccess q = .ro) (r : Regs) (v : Word) : r.write v q = r := by
  cases q with
  | errCode | errCmd | nblk | thr2 | conf | found | rdevLen | rsesLen => rfl
  | rdev _ | rses _ | sum _ => rfl
  | _ => cases h

/-! ### Register accesses of one step -/

/-- A step that writes a register other than `CMD`. -/
theorem step_regWrite {s : State} {q : Reg} {v : Word} {rest : List HostOp} (hq : q ≠ .cmd)
    (h : s.pending = .regWrite (regOffset q) v :: rest) :
    step s = .next ((s.withPending rest).withRegs (s.regs.write v q)) := by
  rw [step_pending h]
  exact hostRegWrite_reg (regAt_regOffset q) hq v _

/-- A step that reads a register. -/
theorem step_regRead {s : State} {q : Reg} {rest : List HostOp} (h : s.pending = .regRead (regOffset q) :: rest) :
    step s = .next ((s.withPending rest).reply (.word (s.regs.read q))) := by
  rw [step_pending h]
  simp [hostOp, hostRegRead, regAt_regOffset]

theorem ne_cmd_of_regAccess_rw {q : Reg} (h : regAccess q = .rw) : q ≠ .cmd := by rintro rfl; cases h

theorem ne_cmd_of_regAccess_ro {q : Reg} (h : regAccess q = .ro) : q ≠ .cmd := by rintro rfl; cases h

/-- Settles O22: the register found at its own offset is written, and reads back its defined bits. -/
theorem registerWriteReadsBack : Obligations.RegisterWriteReadsBack := by
  intro s q v rest hq hp
  exact ⟨s.regs.write v q, step_regWrite (ne_cmd_of_regAccess_rw hq) hp, Regs.read_write_same hq _ v,
    fun p hne => Regs.read_write_ne hq hne _ v⟩

/-- Settles O24: the register found at its own offset is read, and its word lies inside its mask. -/
theorem registerReadsAreHarmless : Obligations.RegisterReadsAreHarmless :=
  ⟨fun _ _ _ hp => step_regRead hp, Regs.read_undefined⟩

/-- Settles O23: the write of a read-only register stores nothing. -/
theorem readOnlyWritesChangeNothing : Obligations.ReadOnlyWritesChangeNothing := by
  intro s q v rest hq hp
  rw [step_regWrite (ne_cmd_of_regAccess_ro hq) hp, Regs.write_readOnly hq]
  rfl

/-- Settles O25: a write of `STATUS` is the acknowledgement of R207, and `STATUS` is a word of two flags. -/
theorem statusIsWriteOneToClear : Obligations.StatusIsWriteOneToClear :=
  ⟨fun _ _ _ hp => step_regWrite (q := .status) (by decide) hp,
    fun r => by rw [Regs.read, Regs.statusWord_eq, flagWord_toNat]⟩

/-- Settles O19, register by register. -/
theorem resetRegisterValues : Obligations.ResetRegisterValues :=
  ⟨Regs.read_reset, fun m a => by cases m <;> rfl⟩

end Sys2Proof.Machine
end

section
/-! SUPPORT AND PROOFS. Everything one step can do: a legal word is its command's word, and each host operation's
effect. Then who writes `PAYLOAD` and the memories (10_state.md R45, R48). -/

namespace Sys2Proof.Machine

/-! ### Decoding -/

/-- A word with the fields of a command is that command's word. -/
theorem eq_encode_of_fields {w : Word} {i : Instr} (hop : opField w = opcode i)
    (hlow : w.toNat % 2 ^ 24 = (lowField i).toNat) : w = encode i := by
  apply BitVec.eq_of_toNat_eq
  have hop : w.toNat / 2 ^ 24 = (opcode i).toNat := by rw [← opField_toNat, hop]
  rw [encode, BitVec.toNat_append, ← Nat.shiftLeft_add_eq_or_of_lt (lowField i).isLt, Nat.shiftLeft_eq]
  omega

/-- What the decoder of format Z answers as legal. -/
theorem eq_of_decodeZ_ok {w : Word} {i j : Instr} (h : decodeZ w j = .ok i) : i = j ∧ w.toNat % 2 ^ 24 = 0 := by
  rcases decodeZ_cases w j with ⟨-, e⟩ | ⟨hlow, e⟩
  · rw [e] at h; cases h
  · rw [e] at h; cases h; exact ⟨rfl, hlow⟩

/-- What the decoder of format S answers as legal. -/
theorem eq_of_decodeS_ok {w : Word} {i : Instr} {mk : Space → Instr} (h : decodeS w mk = .ok i) :
    ∃ m, i = mk m ∧ w.toNat % 2 ^ 24 = (0#23 ++ mBit m).toNat := by
  rcases decodeS_cases w mk with ⟨-, e⟩ | ⟨hlow, e⟩ | ⟨hlow, e⟩
  · rw [e] at h; cases h
  · rw [e] at h; cases h; exact ⟨.src, rfl, hlow⟩
  · rw [e] at h; cases h; exact ⟨.dst, rfl, hlow⟩

/-- A legal word is the word of the command it decodes to (30_encoding.md R84). -/
theorem eq_encode_of_decode {w : Word} {i : Instr} (h : decode w = .ok i) : w = encode i := by
  unfold decode at h
  split at h
  case h_4 hop | h_9 hop =>
    obtain ⟨m, rfl, hlow⟩ := eq_of_decodeS_ok h
    exact eq_encode_of_fields hop hlow
  case h_11 => cases h
  all_goals
    obtain ⟨rfl, hlow⟩ := eq_of_decodeZ_ok h
    exact eq_encode_of_fields ‹_› hlow

/-! ### Everything a host operation can do -/

/-- What a host operation turns a state into, case by case: the four reads; the writes of the memories and of a register;
reset; and, for a word written to `CMD`, dropped, rejected by the decoder or by its command's checks, its command's effect,
or `SRST` (20_memory.md R61, 30_encoding.md R85). -/
inductive HostEffect (s : State) : HostOp → State → Prop
  | regRead (q : Reg) : HostEffect s (.regRead (regOffset q)) (s.reply (.word (s.regs.read q)))
  | srcRead (a : Nat) (ha : a < s.cfg.srcSize) : HostEffect s (.srcRead a) (s.reply (.byte (s.readByte .src a)))
  | dstRead (a : Nat) (ha : a < s.cfg.dstSize) : HostEffect s (.dstRead a) (s.reply (.byte (s.readByte .dst a)))
  | irqSample : HostEffect s .irqSample (s.reply (.level s.regs.irq))
  | srcWrite (a : Nat) (b : Byte) (ha : a < s.cfg.srcSize) : HostEffect s (.srcWrite a b) (s.writeSrc a b)
  | dstWrite (a : Nat) (b : Byte) (ha : a < s.cfg.dstSize) : HostEffect s (.dstWrite a b) (s.writeDst a b)
  | regWrite (q : Reg) (v : Word) (hq : q ≠ .cmd) :
      HostEffect s (.regWrite (regOffset q) v) (s.withRegs (s.regs.write v q))
  | reset : HostEffect s .reset s.hardwareReset
  | dropped (w : Word) (hw : decode w ≠ .ok .srst) (he : s.regs.err = true) : HostEffect s (.regWrite 0x000 w) s
  | rejected (w : Word) (e : Illegal) (hd : decode w = .error e) (he : s.regs.err = false) :
      HostEffect s (.regWrite 0x000 w) (raise (errOfIllegal e) w s)
  | raised (i : Instr) (e : Err) (hi : i ≠ .srst) (he : s.regs.err = false) (hc : checkOf s i = some e) :
      HostEffect s (.regWrite 0x000 (encode i)) (raise e (encode i) s)
  | done (i : Instr) (hi : i ≠ .srst) (he : s.regs.err = false) (hc : checkOf s i = none) :
      HostEffect s (.regWrite 0x000 (encode i)) (effectOf i s).finish
  | srst : HostEffect s (.regWrite 0x000 (encode .srst)) (s.withRegs Regs.reset)

/-- A word written to `CMD` does one of these. -/
theorem issue_effect {w : Word} {s t : State} (h : issue w s = .next t) : HostEffect s (.regWrite 0x000 w) t := by
  cases hd : decode w with
  | ok i =>
    obtain rfl := eq_encode_of_decode hd
    rw [issue_ok hd] at h
    obtain ⟨rfl, rfl⟩ | ⟨hi, he, rfl⟩ | ⟨hi, he, e, hc, rfl⟩ | ⟨hi, he, hc, rfl⟩ := exec_cases h
    · exact .srst
    · exact .dropped _ (by rw [hd]; simpa using hi) he
    · exact .raised i e hi he hc
    · exact .done i hi he hc
  | error e =>
    rw [issue_error hd] at h
    obtain ⟨he, rfl⟩ | ⟨he, rfl⟩ := rejectWord_cases h
    · exact .dropped w (by rw [hd]; nofun) he
    · exact .rejected w e hd he

/-- A register read that is not refused returns the register at its offset. -/
theorem hostRegRead_next {off : Nat} {s t : State} (h : hostRegRead off s = .next t) :
    ∃ q, regAt off = some q ∧ t = s.reply (.word (s.regs.read q)) := by
  unfold hostRegRead at h
  cases hr : regAt off with
  | none => simp [hr] at h
  | some q =>
    rw [hr] at h
    cases h
    exact ⟨q, rfl, rfl⟩

/-- An answer guarded by an address check: the check held. -/
theorem next_of_guarded {c : Prop} [Decidable c] {u t : State} {r : Refusal}
    (h : (if c then .next u else .refused r : Outcome) = .next t) : c ∧ t = u := by
  split_ifs at h with hc
  cases h
  exact ⟨hc, rfl⟩

/-- A host operation that answers a next state does one of these. -/
theorem hostOp_effect {op : HostOp} {s t : State} (h : hostOp op s = .next t) : HostEffect s op t := by
  cases op with
  | regRead off =>
    obtain ⟨q, hr, rfl⟩ := hostRegRead_next h
    obtain rfl := regOffset_of_regAt hr
    exact .regRead q
  | regWrite off v =>
    obtain ⟨hr, hi⟩ | ⟨q, hr, hq, rfl⟩ := hostRegWrite_cases h
    · obtain rfl : 0x000 = off := regOffset_of_regAt hr
      exact issue_effect hi
    · obtain rfl := regOffset_of_regAt hr
      exact .regWrite q v hq
  | srcRead a =>
    obtain ⟨ha, rfl⟩ := next_of_guarded h
    exact .srcRead a ha
  | srcWrite a b =>
    obtain ⟨ha, rfl⟩ := next_of_guarded h
    exact .srcWrite a b ha
  | dstRead a =>
    obtain ⟨ha, rfl⟩ := next_of_guarded h
    exact .dstRead a ha
  | dstWrite a b =>
    obtain ⟨ha, rfl⟩ := next_of_guarded h
    exact .dstWrite a b ha
  | reset => cases h; exact .reset
  | irqSample => cases h; exact .irqSample

/-- A step with nothing pending keeps the state; any other is its oldest host operation's. -/
theorem step_effect {s t : State} (h : step s = .next t) :
    t = s ∨ ∃ op rest, s.pending = op :: rest ∧ HostEffect (s.withPending rest) op t := by
  obtain ⟨-, rfl⟩ | ⟨op, rest, hp, ho⟩ := step_cases h
  · exact .inl rfl
  · exact .inr ⟨op, rest, hp, hostOp_effect ho⟩

/-! ### What each effect leaves alone -/

theorem effectOf_payload {i : Instr} (h : i ≠ .build) (s : State) : (effectOf i s).regs.payload = s.regs.payload := by
  cases i with
  | build => exact absurd rfl h
  | _ =>
    simp [effectOf, embedEffect, lumaEffect, threshEffect, classifyEffect, parseEffect, scoreEffect, detectEffect]

theorem effectOf_dst {i : Instr} (h : i ≠ .embed) (s : State) : (effectOf i s).dst = s.dst := by
  cases i with
  | embed => exact absurd rfl h
  | _ =>
    simp [effectOf, buildEffect, lumaEffect, threshEffect, classifyEffect, parseEffect, scoreEffect, detectEffect]

/-- A register write that is not one of the words of `PAYLOAD` keeps it. -/
theorem Regs.write_payload {q : Reg} (h : ∀ j, q ≠ .payload j) (r : Regs) (v : Word) :
    (r.write v q).payload = r.payload := by
  cases q with
  | payload j => exact absurd rfl (h j)
  | _ => rfl

/-- Settles O50, by the cases of one step: no other of them touches `PAYLOAD`. -/
theorem onlyTheseWriteThePayload : Obligations.OnlyTheseWriteThePayload := by
  intro s t h hne
  obtain rfl | ⟨op, rest, hp, he⟩ := step_effect h
  · exact absurd rfl hne
  refine ⟨rest, ?_⟩
  cases he with
  | reset => exact .inr (.inr (.inl hp))
  | srst => exact .inr (.inl hp)
  | done i =>
    by_cases hb : i = .build
    · subst hb
      exact .inl hp
    · exact absurd (effectOf_payload hb _) hne
  | regWrite q v =>
    by_cases hq : ∃ j, q = .payload j
    · obtain ⟨j, rfl⟩ := hq
      exact .inr (.inr (.inr ⟨j, v, j.isLt, hp⟩))
    · exact absurd (Regs.write_payload (not_exists.1 hq) _ v) hne
  | _ => exact absurd rfl hne

/-- Settles O51, by the cases of one step: no other of them touches the memory. -/
theorem onlyTheseWriteTheMemories : Obligations.OnlyTheseWriteTheMemories := by
  intro s t h
  obtain rfl | ⟨op, rest, hp, he⟩ := step_effect h
  · exact ⟨fun hne => absurd rfl hne, fun hne => absurd rfl hne⟩
  refine ⟨fun hne => ⟨rest, ?_⟩, fun hne => ⟨rest, ?_⟩⟩
  · cases he with
    | reset => exact .inl hp
    | srcWrite a b => exact .inr ⟨a, b, hp⟩
    | done i => exact absurd (effectOf_keeps i _).1 hne
    | _ => exact absurd rfl hne
  · cases he with
    | reset => exact .inl hp
    | dstWrite a b => exact .inr (.inr ⟨a, b, hp⟩)
    | done i =>
      by_cases hb : i = .embed
      · subst hb
        exact .inr (.inl hp)
      · exact absurd (effectOf_dst hb _) hne
    | _ => exact absurd rfl hne

end Sys2Proof.Machine
end

section
/-! SUPPORT AND PROOFS. What the filter of the codec keeps is well-formed UTF-8 (40_codec.md R101, R107 to R109). -/

namespace Sys2Proof.Machine

/-! ### Well-formed UTF-8 (40_codec.md R101, R107, R108) -/

theorem byteIn_iff {x : List Byte} {i lo hi : Nat} :
    byteIn x i lo hi = true ↔ ∃ b, x[i]? = some b ∧ lo ≤ b.toNat ∧ b.toNat ≤ hi := by
  unfold byteIn
  cases x[i]? <;> simp

/-- The byte with a given number, as the encoder writes it. -/
theorem ofNat_eq_of_toNat {b : Byte} {n : Nat} (h : b.toNat = n) : BitVec.ofNat 8 n = b := by
  subst h; simp

theorem char_toNat {u : Nat} (h : u.isValidChar) : (Char.ofNat u).toNat = u := by
  rw [Char.toNat_ofNat, if_pos h]

theorem isUtf8_nil : IsUtf8 [] := ⟨[], rfl⟩

theorem isUtf8_append {x y : List Byte} (hx : IsUtf8 x) (hy : IsUtf8 y) : IsUtf8 (x ++ y) := by
  obtain ⟨s, rfl⟩ := hx
  obtain ⟨t, rfl⟩ := hy
  exact ⟨s ++ t, by simp [utf8enc]⟩

theorem isUtf8_utf8encChar (c : Char) : IsUtf8 (utf8encChar c) := ⟨[c], by simp [utf8enc]⟩

/-- A scalar value below 0x80 is its one byte (R101, first row). -/
theorem isUtf8_take_one {y : List Byte} (h0 : byteIn y 0 0x00 0x7F = true) : IsUtf8 (y.take 1) := by
  obtain ⟨a, ha, -, ha'⟩ := byteIn_iff.1 h0
  have hv : a.toNat.isValidChar := .inl (by omega)
  have he : utf8encChar (Char.ofNat a.toNat) = y.take 1 := by
    simp only [utf8encChar, char_toNat hv]
    rw [if_pos ha', ofNat_eq_of_toNat rfl]
    simp [List.take_add_one, ha]
  exact he ▸ isUtf8_utf8encChar _

/-- A lead byte and one continuation byte encode a scalar value (R101, second row). -/
theorem isUtf8_take_two {y : List Byte} (h0 : byteIn y 0 0xC2 0xDF = true) (h1 : contByte y 1 = true) :
    IsUtf8 (y.take 2) := by
  obtain ⟨a, ha, hal, hah⟩ := byteIn_iff.1 h0
  obtain ⟨b, hb, hbl, hbh⟩ := byteIn_iff.1 h1
  obtain ⟨u, hu⟩ : ∃ u, u = (a.toNat - 0xC0) * 64 + (b.toNat - 0x80) := ⟨_, rfl⟩
  have hv : u.isValidChar := .inl (by omega)
  have he : utf8encChar (Char.ofNat u) = y.take 2 := by
    simp only [utf8encChar, char_toNat hv]
    rw [if_neg (by omega), if_pos (by omega), ofNat_eq_of_toNat (b := a) (by omega), ofNat_eq_of_toNat (b := b) (by omega)]
    simp [List.take_add_one, ha, hb]
  exact he ▸ isUtf8_utf8encChar _

/-- A three-byte row of the table R107 whose scalar values all lie in the third row of R101 and are no surrogates. -/
theorem isUtf8_take_three {y : List Byte} {lo hi lo' hi' : Nat} (h0 : byteIn y 0 lo hi = true)
    (h1 : byteIn y 1 lo' hi' = true) (h2 : contByte y 2 = true) (hlead : 0xE0 ≤ lo ∧ hi ≤ 0xEF)
    (hcont : 0x80 ≤ lo' ∧ hi' ≤ 0xBF) (hmin : 0x800 ≤ (lo - 0xE0) * 4096 + (lo' - 0x80) * 64)
    (hsur : (hi - 0xE0) * 4096 + (hi' - 0x80) * 64 + 63 < 0xD800 ∨
      0xDFFF < (lo - 0xE0) * 4096 + (lo' - 0x80) * 64) : IsUtf8 (y.take 3) := by
  obtain ⟨a, ha, hal, hah⟩ := byteIn_iff.1 h0
  obtain ⟨b, hb, hbl, hbh⟩ := byteIn_iff.1 h1
  obtain ⟨c, hc, hcl, hch⟩ := byteIn_iff.1 h2
  obtain ⟨u, hu⟩ : ∃ u, u = (a.toNat - 0xE0) * 4096 + (b.toNat - 0x80) * 64 + (c.toNat - 0x80) := ⟨_, rfl⟩
  have hv : u.isValidChar := by
    rcases hsur with h | h
    · exact .inl (by omega)
    · exact .inr ⟨by omega, by omega⟩
  have he : utf8encChar (Char.ofNat u) = y.take 3 := by
    simp only [utf8encChar, char_toNat hv]
    rw [if_neg (by omega), if_neg (by omega), if_pos (by omega), ofNat_eq_of_toNat (b := a) (by omega),
      ofNat_eq_of_toNat (b := b) (by omega), ofNat_eq_of_toNat (b := c) (by omega)]
    simp [List.take_add_one, ha, hb, hc]
  exact he ▸ isUtf8_utf8encChar _

/-- A four-byte row of the table R107 whose scalar values all lie between 0x10000 and 0x10FFFF. -/
theorem isUtf8_take_four {y : List Byte} {lo hi lo' hi' : Nat} (h0 : byteIn y 0 lo hi = true)
    (h1 : byteIn y 1 lo' hi' = true) (h2 : contByte y 2 = true) (h3 : contByte y 3 = true)
    (hlead : 0xF0 ≤ lo ∧ hi ≤ 0xF4) (hcont : 0x80 ≤ lo' ∧ hi' ≤ 0xBF)
    (hmin : 0x10000 ≤ (lo - 0xF0) * 262144 + (lo' - 0x80) * 4096)
    (hmax : (hi - 0xF0) * 262144 + (hi' - 0x80) * 4096 + 4095 ≤ 0x10FFFF) : IsUtf8 (y.take 4) := by
  obtain ⟨a, ha, hal, hah⟩ := byteIn_iff.1 h0
  obtain ⟨b, hb, hbl, hbh⟩ := byteIn_iff.1 h1
  obtain ⟨c, hc, hcl, hch⟩ := byteIn_iff.1 h2
  obtain ⟨d, hd, hdl, hdh⟩ := byteIn_iff.1 h3
  obtain ⟨u, hu⟩ : ∃ u, u = (a.toNat - 0xF0) * 262144 + (b.toNat - 0x80) * 4096 + (c.toNat - 0x80) * 64 +
    (d.toNat - 0x80) := ⟨_, rfl⟩
  have hv : u.isValidChar := .inr ⟨by omega, by omega⟩
  have he : utf8encChar (Char.ofNat u) = y.take 4 := by
    simp only [utf8encChar, char_toNat hv]
    rw [if_neg (by omega), if_neg (by omega), if_neg (by omega), ofNat_eq_of_toNat (b := a) (by omega),
      ofNat_eq_of_toNat (b := b) (by omega), ofNat_eq_of_toNat (b := c) (by omega),
      ofNat_eq_of_toNat (b := d) (by omega)]
    simp [List.take_add_one, ha, hb, hc, hd]
  exact he ▸ isUtf8_utf8encChar _

theorem isUtf8_take_ite {c : Prop} [Decidable c] {y : List Byte} {m n : Nat} (h : c → IsUtf8 (y.take m))
    (h' : IsUtf8 (y.take n)) : IsUtf8 (y.take (if c then m else n)) := by
  split
  · next hc => exact h hc
  · exact h'

/-- The bytes that a row of the table R107 accepts are well-formed UTF-8, row by row; where no row does there are none. -/
theorem isUtf8_take_wfLen (y : List Byte) : IsUtf8 (y.take (wfLen y 0)) := by
  have empty : IsUtf8 (y.take 0) := isUtf8_nil
  unfold wfLen
  simp only [Nat.zero_add, Bool.and_eq_true, and_assoc]
  exact
    isUtf8_take_ite isUtf8_take_one <|
    isUtf8_take_ite (fun h0 => isUtf8_take_ite (isUtf8_take_two h0) empty) <|
    isUtf8_take_ite (fun h0 => isUtf8_take_ite (fun ⟨h1, h2⟩ =>
      isUtf8_take_three h0 h1 h2 (by decide) (by decide) (by decide) (by decide)) empty) <|
    isUtf8_take_ite (fun h0 => isUtf8_take_ite (fun ⟨h1, h2⟩ =>
      isUtf8_take_three h0 h1 h2 (by decide) (by decide) (by decide) (by decide)) empty) <|
    isUtf8_take_ite (fun h0 => isUtf8_take_ite (fun ⟨h1, h2⟩ =>
      isUtf8_take_three h0 h1 h2 (by decide) (by decide) (by decide) (by decide)) empty) <|
    isUtf8_take_ite (fun h0 => isUtf8_take_ite (fun ⟨h1, h2⟩ =>
      isUtf8_take_three h0 h1 h2 (by decide) (by decide) (by decide) (by decide)) empty) <|
    isUtf8_take_ite (fun h0 => isUtf8_take_ite (fun ⟨h1, h2, h3⟩ =>
      isUtf8_take_four h0 h1 h2 h3 (by decide) (by decide) (by decide) (by decide)) empty) <|
    isUtf8_take_ite (fun h0 => isUtf8_take_ite (fun ⟨h1, h2, h3⟩ =>
      isUtf8_take_four h0 h1 h2 h3 (by decide) (by decide) (by decide) (by decide)) empty) <|
    isUtf8_take_ite (fun h0 => isUtf8_take_ite (fun ⟨h1, h2, h3⟩ =>
      isUtf8_take_four h0 h1 h2 h3 (by decide) (by decide) (by decide) (by decide)) empty) <|
    empty

/-- What the filter keeps from any index on is well-formed UTF-8 (R108). -/
theorem isUtf8_utf8Loop (x : List Byte) (fuel i : Nat) : IsUtf8 (utf8Loop x fuel i) := by
  induction fuel generalizing i with
  | zero => exact isUtf8_nil
  | succ fuel ih =>
    unfold utf8Loop
    split_ifs
    · have hrow : IsUtf8 ((x.drop i).take (wfLen x i)) := by
        simpa only [wfLen_drop, Nat.add_zero] using isUtf8_take_wfLen (x.drop i)
      exact isUtf8_append hrow (ih _)
    · exact ih _
    · exact isUtf8_nil

theorem isUtf8_parseIdentifiers_first (p : Vector Byte 32) : IsUtf8 (parseIdentifiers p).1 := isUtf8_utf8Loop _ _ _

theorem isUtf8_parseIdentifiers_second (p : Vector Byte 32) : IsUtf8 (parseIdentifiers p).2 := isUtf8_utf8Loop _ _ _

/-- A decoded identifier of at most 16 bytes, as `PARSE` leaves it in its registers (10_state.md R41, R42). -/
theorem idRegsWf_idBytes {x : List Byte} (hlen : x.length ≤ 16) (hx : IsUtf8 x) :
    IdRegsWf (idBytes x) (BitVec.ofNat 5 x.length) := by
  have hl : (BitVec.ofNat 5 x.length).toNat = x.length := by
    rw [BitVec.toNat_ofNat, Nat.mod_eq_of_lt (by omega)]
  constructor
  · omega
  · rwa [idBytes_take x hlen]
  · intro i hi hle
    rw [idBytes_get x i hi, List.getElem?_eq_none (by omega)]
    rfl

end Sys2Proof.Machine
end

section
/-! SUPPORT AND PROOFS. The invariant of the whole machine, kept by every step. -/

namespace Sys2Proof.Machine

/-! ### The invariant of the register file -/

theorem idRegsWf_reset : IdRegsWf (Vector.replicate 16 0#8) 0#5 where
  len_le := by decide
  utf8 := isUtf8_nil
  zero_above := fun i h _ => Vector.getElem_replicate h

theorem regsInv_reset : RegsInv Regs.reset where
  errCode_le := by decide
  err_recorded := fun h => nomatch h
  nblk_le := by decide
  sum_le := fun k h => by
    show ((Vector.replicate 256 0#14)[k]).toNat ≤ 16320
    simp
  sum_zero_above := fun k h _ => Vector.getElem_replicate h
  thr2_le := by decide
  conf_range := .inl rfl
  found_conf := fun h => nomatch h
  rdev_wf := idRegsWf_reset
  rses_wf := idRegsWf_reset

theorem regsInv_complete {r : Regs} (h : RegsInv r) : RegsInv r.complete := { h with }

/-- Every error has one of the codes 1 to 5 (60_exceptions.md R201). -/
theorem errCodeOf_range (e : Err) : errCodeOf e ≠ 0#4 ∧ (errCodeOf e).toNat ≤ 5 := by
  cases e <;> decide

theorem regsInv_raise {r : Regs} (h : RegsInv r) (e : Err) (w : Word) : RegsInv (r.raise e w) :=
  { h with
    errCode_le := (errCodeOf_range e).2
    err_recorded := fun _ => (errCodeOf_range e).1 }

/-- Acknowledging can only clear `ERR`. -/
theorem regsInv_ack {r : Regs} (h : RegsInv r) (v : Word) : RegsInv (r.ack v) :=
  { h with
    err_recorded := fun he => h.err_recorded (Bool.and_eq_true_iff.1 he).1 }

/-- No register that the host may write is bounded, but `STATUS`. -/
theorem regsInv_write {r : Regs} (h : RegsInv r) (v : Word) (q : Reg) : RegsInv (r.write v q) := by
  cases q with
  | status => exact regsInv_ack h v
  | _ => exact { h with }

theorem regsInv_withPayload {r : Regs} (h : RegsInv r) (p : Vector Byte 32) : RegsInv (r.withPayload p) := { h with }

theorem regsInv_withRpayload {r : Regs} (h : RegsInv r) (p : Vector Byte 32) : RegsInv (r.withRpayload p) := { h with }

/-! ### The invariant and the results of the detector -/

theorem grid_scanned_le (g : Grid) : g.scanned ≤ 256 := Nat.min_le_right _ _

/-- 64 samples of at most 255, whatever the grid (42_detector.md R151). -/
theorem grid_blockSum_le (g : Grid) (k : Nat) : g.blockSum k ≤ 16320 := by
  unfold Grid.blockSum
  rw [sum_map_range]
  calc _ ≤ ∑ i ∈ Finset.range 8, 2040 := Finset.sum_le_sum fun i _ => by
        rw [sum_map_range]
        calc _ ≤ ∑ j ∈ Finset.range 8, 255 := Finset.sum_le_sum fun j _ => Nat.le_of_lt_succ (BitVec.isLt _)
          _ = 2040 := by simp
    _ = 16320 := by simp

theorem grid_sumRegs_le (g : Grid) (k : Nat) (hk : k < 256) : g.sumRegs[k].toNat ≤ 16320 := by
  unfold Grid.sumRegs
  rw [Vector.getElem_ofFn]
  split
  · rw [BitVec.toNat_ofNat]
    exact (Nat.mod_le _ _).trans (grid_blockSum_le g _)
  · simp

theorem grid_sumRegs_above (g : Grid) (k : Nat) (hk : k < 256) (h : g.scanned ≤ k) : g.sumRegs[k] = 0#14 := by
  unfold Grid.sumRegs
  rw [Vector.getElem_ofFn]
  exact if_neg (Nat.not_lt.2 h)

theorem nblk_ofNat_scanned (g : Grid) : (BitVec.ofNat 9 g.scanned).toNat = g.scanned := by
  have := grid_scanned_le g
  rw [BitVec.toNat_ofNat, Nat.mod_eq_of_lt (by omega)]

theorem regsInv_lumaEffect {s : State} (h : RegsInv s.regs) (m : Space) : RegsInv (lumaEffect m s).regs :=
  { h with
    nblk_le := (nblk_ofNat_scanned _).trans_le (grid_scanned_le _)
    sum_le := grid_sumRegs_le _
    sum_zero_above := fun k hk hle => grid_sumRegs_above _ k hk ((nblk_ofNat_scanned _).symm.trans_le hle) }

theorem regsInv_threshEffect {s : State} (h : RegsInv s.regs) : RegsInv (threshEffect s).regs :=
  { h with
    thr2_le := by
      rw [threshEffect_thr2]
      refine median2_le _ 16320 fun v hv => ?_
      obtain ⟨b, hb, rfl⟩ := List.mem_map.1 hv
      obtain ⟨k, hk, rfl⟩ := List.getElem_of_mem (List.mem_of_mem_take hb)
      exact h.sum_le k (by simpa using hk) }

theorem regsInv_parseEffect {s : State} (h : RegsInv s.regs) : RegsInv (parseEffect s).regs :=
  { h with
    rdev_wf := idRegsWf_idBytes (parseIdentifiers_first_length_le _) (isUtf8_parseIdentifiers_first _)
    rses_wf := idRegsWf_idBytes (parseIdentifiers_second_length_le _) (isUtf8_parseIdentifiers_second _) }

theorem confidenceNum_ge (b : List Bool) : 128 ≤ confidenceNum b := by
  unfold confidenceNum
  omega

theorem regsInv_scoreEffect {s : State} (h : RegsInv s.regs) : RegsInv (scoreEffect s).regs :=
  { h with
    conf_range := by
      rw [scoreEffect_conf]
      exact .inr ⟨confidenceNum_ge _, confidenceNum_le _ (by simp)⟩
    found_conf := fun hf => by
      rw [scoreEffect_conf]
      exact of_decide_eq_true (Bool.and_eq_true_iff.1 hf).2 }

theorem regsInv_effectOf {s : State} (h : RegsInv s.regs) (i : Instr) : RegsInv (effectOf i s).regs := by
  cases i with
  | nop | srst | embed => exact h
  | build => exact regsInv_withPayload h _
  | luma m => exact regsInv_lumaEffect h m
  | thresh => exact regsInv_threshEffect h
  | classify => exact regsInv_withRpayload h _
  | parse => exact regsInv_parseEffect h
  | score => exact regsInv_scoreEffect h
  | detect m =>
    exact regsInv_scoreEffect (regsInv_parseEffect (regsInv_withRpayload (regsInv_threshEffect (regsInv_lumaEffect h m)) _))

/-! ### The invariant of the state -/

theorem stateInv_withRegs {s : State} (h : StateInv s) {r : Regs} (hr : RegsInv r) : StateInv (s.withRegs r) :=
  { h with regs := hr }

theorem fitsDst_of_embedCheck {s : State} (h : s.embedCheck = none) : s.height * s.width ≤ s.cfg.dstSize := by
  unfold State.embedCheck at h
  split_ifs at h with hc hf hz
  simp only [Bool.or_eq_true, Bool.not_eq_true', not_or, Bool.not_eq_false] at hf
  exact of_decide_eq_true hf.2

theorem stateInv_effectOf {s : State} (h : StateInv s) {i : Instr} (hc : checkOf s i = none) :
    StateInv (effectOf i s) := by
  obtain ⟨hsrc, hcfg, -⟩ := effectOf_keeps i s
  constructor
  · exact regsInv_effectOf h.regs i
  · rw [hsrc, hcfg]
    exact h.src
  · rw [hcfg]
    by_cases hi : i = .embed
    · subst hi
      have hlen : s.embedded.bytes.length = s.height * s.width := Grid.bytes_length _
      have hfit : s.height * s.width ≤ s.cfg.dstSize := fitsDst_of_embedCheck hc
      exact MemoryInv_storeRun h.dst (by omega)
    · rw [effectOf_dst hi]
      exact h.dst
  · rw [hcfg]
    exact h.cfg

/-- Every host operation keeps the invariant. -/
theorem stateInv_hostEffect {s t : State} {op : HostOp} (h : StateInv s) (he : HostEffect s op t) : StateInv t := by
  cases he with
  | regRead | srcRead | dstRead | irqSample => exact { h with }
  | srcWrite a b ha => exact { h with src := MemoryInv_put h.src ha b }
  | dstWrite a b ha => exact { h with dst := MemoryInv_put h.dst ha b }
  | regWrite q v => exact stateInv_withRegs h (regsInv_write h.regs v q)
  | reset => exact ⟨regsInv_reset, MemoryInv_nil _, MemoryInv_nil _, h.cfg⟩
  | dropped => exact h
  | rejected | raised => exact stateInv_withRegs h (regsInv_raise h.regs _ _)
  | done i hi he hc =>
    have hf := stateInv_effectOf h hc
    exact stateInv_withRegs hf (regsInv_complete hf.regs)
  | srst => exact stateInv_withRegs h regsInv_reset

/-- Settles O52, by the cases of one step, each of which keeps the invariant. -/
theorem stepKeepsInvariant : Obligations.StepKeepsInvariant := by
  intro s t h hstep
  obtain rfl | ⟨op, rest, -, he⟩ := step_effect hstep
  · exact h
  · have hw : StateInv (s.withPending rest) := { h with }
    exact stateInv_hostEffect hw he

/-- Settles O53: the reset registers meet their invariant, and an empty memory is canonical. -/
theorem resetMeetsInvariant : Obligations.ResetMeetsInvariant :=
  ⟨regsInv_reset, MemoryInv_nil _, MemoryInv_nil _, by decide⟩

end Sys2Proof.Machine
end

section
/-! SUPPORT AND PROOFS. Detection reads the image and its description alone (10_state.md R48,
70_reset_and_hazards.md R233). -/

namespace Sys2Proof.Machine

/-! ### Detection reads the image and its description alone -/

/-- What `DETECT` leaves in its result registers is a function of the grid it scans. -/
theorem detectEffect_congr {m : Space} {s s' : State} (h : s'.grid m = s.grid m) :
    (detectEffect m s').regs.result = (detectEffect m s).regs.result ∧
      (detectEffect m s').regs.nblk = (detectEffect m s).regs.nblk ∧
        (detectEffect m s').regs.sum = (detectEffect m s).regs.sum ∧
          (detectEffect m s').regs.thr2 = (detectEffect m s).regs.thr2 := by
  simp [detectEffect, scoreEffect, parseEffect, classifyEffect, threshEffect, lumaEffect, Regs.result, Regs.sums, h]

/-- The grid of an image command depends on the dimensions, the memory it scans and that memory's free bytes alone. -/
theorem grid_congr {m : Space} {s s' : State} (hH : s'.regs.imgH = s.regs.imgH) (hW : s'.regs.imgW = s.regs.imgW)
    (hC : s'.regs.imgC = s.regs.imgC) (hread : ∀ a, s'.readByte m a = s.readByte m a) : s'.grid m = s.grid m := by
  cases m with
  | src =>
    have hpx : s'.srcImage = s.srcImage := by
      simp only [State.srcImage, State.height, State.width, State.channels, hH, hW, hC, Image.mk.injEq, true_and]
      funext r c ch
      simp only [State.srcSample, State.width, State.channels, hW, hC, hread]
    exact congrArg reduce hpx
  | dst =>
    simp only [State.grid, State.dstGrid, State.height, State.width, hH, hW, Grid.mk.injEq, true_and]
    funext r c
    simp only [State.dstSample, State.width, hW, hread]

@[simp] theorem Regs_complete_result (r : Regs) : r.complete.result = r.result := rfl

theorem execDetect_done {m : Space} {s : State} (he : NoError s) (hc : ChannelsLegal s m) (hf : ImageFits s m) :
    exec (.detect m) s = .next (detectEffect m s).finish :=
  exec_done (by nofun) he (scanCheck_none hc hf)

/-- Settles O49: both states scan the same grid, and the result is a function of the grid. -/
theorem detectionIsIndependentOfTheEmbedder : Obligations.DetectionIsIndependentOfTheEmbedder := by
  intro m s s' he he' hc hf hH hW hC hcfg hres hmem
  have hc' : ChannelsLegal s' m := by rwa [ChannelsLegal, hC]
  have hf' : ImageFits s' m := by
    unfold ImageFits at hf ⊢
    rwa [hH, hW, hC, hcfg]
  have hgrid : s'.grid m = s.grid m :=
    grid_congr hH hW hC fun a => State_readByte_congr m a (by rw [hmem]) hres (by rw [hcfg])
  exact ⟨_, _, execDetect_done he hc hf, execDetect_done he' hc' hf', by simpa using detectEffect_congr hgrid⟩

end Sys2Proof.Machine
end

section
/-! SUPPORT AND PROOFS. The host's accesses: which of them have a meaning (20_memory.md R62 to R64), and what the four
accesses of the memories do (R61, R69). -/

namespace Sys2Proof.Machine

/-! ### One access of a memory inside its size -/

theorem hostSrcRead_inside {s : State} {a : Nat} (ha : a < s.cfg.srcSize) :
    hostSrcRead a s = .next (s.reply (.byte (s.readByte .src a))) := if_pos ha

theorem hostSrcWrite_inside {s : State} {a : Nat} (ha : a < s.cfg.srcSize) (b : Byte) :
    hostSrcWrite a b s = .next (s.writeSrc a b) := if_pos ha

theorem hostDstRead_inside {s : State} {a : Nat} (ha : a < s.cfg.dstSize) :
    hostDstRead a s = .next (s.reply (.byte (s.readByte .dst a))) := if_pos ha

theorem hostDstWrite_inside {s : State} {a : Nat} (ha : a < s.cfg.dstSize) (b : Byte) :
    hostDstWrite a b s = .next (s.writeDst a b) := if_pos ha

/-! ### One access of a register -/

theorem exists_regAt_of_wf {off : Nat} (h : regOffsetWf off = true) : ∃ q, regAt off = some q :=
  Option.isSome_iff_exists.1 ((regAt_isSome off).trans h)

theorem regAt_eq_none_of_not_wf {off : Nat} (h : regOffsetWf off = false) : regAt off = none :=
  Option.isNone_iff_eq_none.1 (Option.isSome_eq_false_iff.1 ((regAt_isSome off).trans h))

theorem hostRegRead_reg {off : Nat} {q : Reg} (h : regAt off = some q) (s : State) :
    hostRegRead off s = .next (s.reply (.word (s.regs.read q))) := by
  rw [hostRegRead, h]

theorem hostRegRead_none {off : Nat} (h : regAt off = none) (s : State) :
    hostRegRead off s = .refused (.noRegister off) := by
  rw [hostRegRead, h]

theorem hostRegWrite_none {off : Nat} (h : regAt off = none) (v : Word) (s : State) :
    hostRegWrite off v s = .refused (.noRegister off) := by
  rw [hostRegWrite, h]

/-- A write of any register, `CMD` among them, answers a next state. -/
theorem hostRegWrite_next {off : Nat} {q : Reg} (h : regAt off = some q) (v : Word) (s : State) :
    ∃ t, hostRegWrite off v s = .next t := by
  by_cases hq : q = .cmd
  · subst hq
    obtain rfl : 0x000 = off := regOffset_of_regAt h
    exact issue_next v s
  · exact ⟨_, hostRegWrite_reg h hq v s⟩

/-! ### Which operations have a meaning -/

/-- A host operation with a meaning answers a next state. -/
theorem hostOp_next_of_wf {op : HostOp} {s : State} (h : op.wf s.cfg = true) : ∃ t, hostOp op s = .next t := by
  cases op with
  | regRead off =>
    obtain ⟨q, hq⟩ := exists_regAt_of_wf h
    exact ⟨_, hostRegRead_reg hq s⟩
  | regWrite off v =>
    obtain ⟨q, hq⟩ := exists_regAt_of_wf h
    exact hostRegWrite_next hq v s
  | srcRead a => exact ⟨_, hostSrcRead_inside (of_decide_eq_true h)⟩
  | srcWrite a b => exact ⟨_, hostSrcWrite_inside (of_decide_eq_true h) b⟩
  | dstRead a => exact ⟨_, hostDstRead_inside (of_decide_eq_true h)⟩
  | dstWrite a b => exact ⟨_, hostDstWrite_inside (of_decide_eq_true h) b⟩
  | reset => exact ⟨_, rfl⟩
  | irqSample => exact ⟨_, rfl⟩

/-- A host operation without a meaning is refused. -/
theorem hostOp_refused_of_not_wf {op : HostOp} {s : State} (h : op.wf s.cfg = false) :
    ∃ r, hostOp op s = .refused r := by
  cases op with
  | regRead off => exact ⟨_, hostRegRead_none (regAt_eq_none_of_not_wf h) s⟩
  | regWrite off v => exact ⟨_, hostRegWrite_none (regAt_eq_none_of_not_wf h) v s⟩
  | srcRead a | srcWrite a b | dstRead a | dstWrite a b => exact ⟨_, if_neg (of_decide_eq_false h)⟩
  | reset | irqSample => cases h

/-- Settles O29: an operation with a meaning answers a next state, one without is refused, and no outcome is both. -/
theorem stepRefusesExactlyIllFormedAccess : Obligations.StepRefusesExactlyIllFormedAccess := by
  intro s op rest hp
  rw [step_pending hp]
  cases hwf : op.wf s.cfg with
  | true =>
    obtain ⟨t, ht⟩ := hostOp_next_of_wf (s := s.withPending rest) hwf
    simp [ht]
  | false =>
    obtain ⟨r, hr⟩ := hostOp_refused_of_not_wf (s := s.withPending rest) hwf
    simp [hr]

/-! ### Reading back a write -/

/-- Once a byte is put into a memory, that byte is read at its address, and every other address reads as before (20_memory.md
R69). -/
theorem State_readByte_of_put {s t : State} {m : Space} {a : Nat} {b : Byte} (hm : (s.mem m).wf)
    (hput : t.mem m = (s.mem m).put a b) (hr : t.resets = s.resets) (hu : t.cfg.unit = s.cfg.unit) (x : Nat) :
    t.readByte m x = if x = a then b else s.readByte m x := by
  have hget : (t.mem m).get? x = if x = a then some b else (s.mem m).get? x := by
    rw [hput, Memory.get?_put _ _ _ _ hm]
  by_cases hx : x = a
  · rw [if_pos hx] at hget ⊢
    simp only [State.readByte, hget]
  · rw [if_neg hx] at hget ⊢
    exact State_readByte_congr m x hget hr hu

/-- Settles O28, access by access: one address check, then the read or the write itself. -/
theorem hostMemoryAccess : Obligations.HostMemoryAccess := by
  refine ⟨fun s a b rest hm ha hp => ⟨(s.withPending rest).writeSrc a b, ?_, rfl, ?_⟩,
    fun s a b rest hm ha hp => ⟨(s.withPending rest).writeDst a b, ?_, rfl, ?_⟩,
    fun s a rest ha hp => ?_, fun s a rest ha hp => ?_⟩
  · exact (step_pending hp).trans (hostSrcWrite_inside (s := s.withPending rest) ha b)
  · exact State_readByte_of_put (m := .src) hm rfl rfl rfl
  · exact (step_pending hp).trans (hostDstWrite_inside (s := s.withPending rest) ha b)
  · exact State_readByte_of_put (m := .dst) hm rfl rfl rfl
  · exact (step_pending hp).trans (hostSrcRead_inside (s := s.withPending rest) ha)
  · exact (step_pending hp).trans (hostDstRead_inside (s := s.withPending rest) ha)

end Sys2Proof.Machine
end

section
/-! SUPPORT AND PROOFS. The decoder and the encoder (30_encoding.md R81 to R86): the words of each class, and what a step
does with a legal and with an illegal word. -/

namespace Sys2Proof.Machine

/-! ### The legal words -/

/-- A command's word decodes to it (30_encoding.md R84). -/
@[simp] theorem decode_encode (i : Instr) : decode (encode i) = .ok i :=
  match i with
  | .nop => Laws.EncodeDecode.nop.1
  | .build => Laws.EncodeDecode.build.1
  | .embed => Laws.EncodeDecode.embed.1
  | .luma m => (Laws.EncodeDecode.luma m).1
  | .thresh => Laws.EncodeDecode.thresh.1
  | .classify => Laws.EncodeDecode.classify.1
  | .parse => Laws.EncodeDecode.parse.1
  | .score => Laws.EncodeDecode.score.1
  | .detect m => (Laws.EncodeDecode.detect m).1
  | .srst => Laws.EncodeDecode.srst.1

/-- Settles O2: a legal word has the fields of its command, and each command's word decodes to it. -/
theorem decodeAgreesWithEncode : Obligations.DecodeAgreesWithEncode := by
  intro w i
  constructor
  · exact eq_encode_of_decode
  · rintro rfl
    exact decode_encode i

/-- A command's word, read as an instruction of the opcode table, is that command. -/
theorem decodeTableWord_encode (i : Instr) : decodeTableWord 32 (encode i).toNat = some i := by
  have hword : BitVec.ofNat 32 ((encode i).toNat % 2 ^ 32) = encode i := by
    rw [Nat.mod_eq_of_lt (encode i).isLt, BitVec.ofNat_toNat, BitVec.setWidth_eq]
  rw [decodeTableWord, hword, decode_encode]

/-- Settles O1: each of the twelve words is the encoding of its command. -/
theorem tableWordsDecode : Obligations.TableWordsDecode :=
  ⟨decodeTableWord_encode .nop, decodeTableWord_encode .build, decodeTableWord_encode .embed,
    decodeTableWord_encode (.luma .src), decodeTableWord_encode (.luma .dst), decodeTableWord_encode .thresh,
    decodeTableWord_encode .classify, decodeTableWord_encode .parse, decodeTableWord_encode .score,
    decodeTableWord_encode (.detect .src), decodeTableWord_encode (.detect .dst), decodeTableWord_encode .srst⟩

/-! ### The classes of words (30_encoding.md R86) -/

/-- The opcode `op` is none of the ten assigned (30_encoding.md R84). -/
def OpUnassigned (op : Nat) : Prop := 0x09 ≤ op ∧ op ≤ 0xFE

/-- The least value of the low 24 bits with a reserved field not zero: bit 0 is `M` in format S, that of the opcodes 0x03
and 0x08 (30_encoding.md R81). -/
def leastReserved (op : Nat) : Nat := if op = 0x03 ∨ op = 0x08 then 2 else 1

/-- What the decoder answers to a word with opcode `op` and low 24 bits `low`, by the three classes of R86. -/
inductive DecodeClass (op low : Nat) : Except Illegal Instr → Prop
  | opcode (hop : OpUnassigned op) : DecodeClass op low (.error .opcode)
  | reserved (hop : ¬OpUnassigned op) (hlow : leastReserved op ≤ low) : DecodeClass op low (.error .reserved)
  | legal (hop : ¬OpUnassigned op) (hlow : low < leastReserved op) (i : Instr) : DecodeClass op low (.ok i)

theorem decodeZ_class {w : Word} {op : Nat} (hop : ¬OpUnassigned op) (hz : leastReserved op = 1) (i : Instr) :
    DecodeClass op (w.toNat % 2 ^ 24) (decodeZ w i) := by
  obtain ⟨hlow, e⟩ | ⟨hlow, e⟩ := decodeZ_cases w i
  · rw [e]; exact .reserved hop (by omega)
  · rw [e]; exact .legal hop (by omega) i

theorem decodeS_class {w : Word} {op : Nat} (hop : ¬OpUnassigned op) (hs : leastReserved op = 2) (mk : Space → Instr) :
    DecodeClass op (w.toNat % 2 ^ 24) (decodeS w mk) := by
  obtain ⟨hlow, e⟩ | ⟨hlow, e⟩ | ⟨hlow, e⟩ := decodeS_cases w mk
  · rw [e]; exact .reserved hop (by omega)
  · rw [e]; exact .legal hop (by omega) _
  · rw [e]; exact .legal hop (by omega) _

/-- An opcode with no row in the map of R84. -/
theorem opUnassigned_of_ne {op : BitVec 8} (h0 : op ≠ 0x00#8) (h1 : op ≠ 0x01#8) (h2 : op ≠ 0x02#8) (h3 : op ≠ 0x03#8)
    (h4 : op ≠ 0x04#8) (h5 : op ≠ 0x05#8) (h6 : op ≠ 0x06#8) (h7 : op ≠ 0x07#8) (h8 : op ≠ 0x08#8) (hF : op ≠ 0xFF#8) :
    OpUnassigned op.toNat := by
  unfold OpUnassigned
  bv_omega

/-- Everything the decoder can answer, by the opcode and the low 24 bits. -/
theorem decode_class (w : Word) : DecodeClass (w.toNat / 2 ^ 24) (w.toNat % 2 ^ 24) (decode w) := by
  rw [← opField_toNat]
  unfold decode
  split
  case h_4 hop | h_9 hop =>
    rw [hop]
    exact decodeS_class (by simp [OpUnassigned]) rfl _
  case h_11 h0 h1 h2 h3 h4 h5 h6 h7 h8 hF => exact .opcode (opUnassigned_of_ne h0 h1 h2 h3 h4 h5 h6 h7 h8 hF)
  all_goals
    rw [‹opField w = _›]
    exact decodeZ_class (by simp [OpUnassigned]) rfl _

theorem DecodeClass.eq_opcode_iff {op low : Nat} {a : Except Illegal Instr} (h : DecodeClass op low a) :
    a = .error .opcode ↔ OpUnassigned op := by
  cases h with
  | opcode hop => simp [hop]
  | reserved hop => simp [hop]
  | legal hop => simp [hop]

theorem DecodeClass.eq_reserved_iff {op low : Nat} {a : Except Illegal Instr} (h : DecodeClass op low a) :
    a = .error .reserved ↔ ¬OpUnassigned op ∧ leastReserved op ≤ low := by
  cases h with
  | opcode hop => simp [hop]
  | reserved hop hlow => simp [hop, hlow]
  | legal hop hlow => simp [hlow]

/-- Settles O3, by the class that the decoder's answer is in. -/
theorem illegalWordsByClass : Obligations.IllegalWordsByClass :=
  fun w => ⟨(decode_class w).eq_opcode_iff, (decode_class w).eq_reserved_iff⟩

/-! ### A step that issues a word (30_encoding.md R85) -/

/-- Settles O4: the step issues the word, and a legal word is executed. -/
theorem stepRunsTheDecodedCommand : Obligations.StepRunsTheDecodedCommand := by
  intro s w i rest hp hd
  rw [step_command hp, issue_ok hd]
  rfl

/-- A word that is no legal command raises its error while `ERR` is 0. -/
theorem rejectWord_raised {s : State} (h : s.regs.err = false) (w : Word) (e : Illegal) :
    rejectWord s w e = .next (raise (errOfIllegal e) w s) := by
  simp [rejectWord, h]

/-- Error entry is what R204 says of the error's code. -/
theorem raise_eq_errorTaken (e : Err) (w : Word) (s : State) : raise e w s = errorTaken (errCodeOf e) w s := rfl

/-- A step that issues a word that is no legal command while `ERR` is 0. -/
theorem step_illegal {s : State} {w : Word} {rest : List HostOp} {e : Illegal}
    (hp : s.pending = .regWrite 0x000 w :: rest) (he : NoError s) (hd : decode w = .error e) :
    step s = .next (errorTaken (errCodeOf (errOfIllegal e)) w (s.withPending rest)) := by
  rw [step_command hp, issue_error hd, rejectWord_raised (s := s.withPending rest) he, raise_eq_errorTaken]

/-- Settles O5: the word's class is the decoder's answer, whose error the step takes. -/
theorem illegalWordTakesItsError : Obligations.IllegalWordTakesItsError := by
  intro s w rest hp he
  obtain ⟨hopcode, hreserved⟩ := illegalWordsByClass w
  constructor
  · intro hop
    exact step_illegal hp he (hopcode.2 hop)
  · intro hop hlow
    exact step_illegal hp he (hreserved.2 ⟨hop, hlow⟩)

end Sys2Proof.Machine
end

section
/-! SUPPORT AND PROOFS. The functions of the codec (40_codec.md): bit sequences (R103, R105), stripping and filtering (R106
to R108), the identifiers that a payload carries (R109, R114), and `hex` (R112). -/

namespace Sys2Proof.Machine

/-! ### Bit sequences (40_codec.md R103 to R105) -/

/-- One bit of a byte array's word (10_state.md R25). -/
theorem wordAt_getLsbD {n j i : Nat} (v : Vector Byte n) (hj : 4 * j + 3 < n) (hi : i < 32) :
    (wordAt v j).getLsbD i = v[4 * j + i / 8].getLsbD (i % 8) := by
  have byte : ∀ k (hk : k < 4), v[4 * j + k]?.getD 0#8 = v[4 * j + k] := fun k hk => by
    rw [Vector.getElem?_eq_getElem (by omega), Option.getD_some]
  unfold wordAt
  rw [byte 3 (by omega), byte 2 (by omega), byte 1 (by omega), show v[4 * j]?.getD 0#8 = _ from byte 0 (by omega)]
  simp only [BitVec.getLsbD_append]
  by_cases h0 : i < 8
  · simp [h0, show i / 8 = 0 by omega, show i % 8 = i by omega]
  by_cases h1 : i < 16
  · simp [h0, show i - 8 < 8 by omega, show i / 8 = 1 by omega, show i % 8 = i - 8 by omega]
  by_cases h2 : i < 24
  · simp [h0, show ¬i - 8 < 8 by omega, show i - 8 - 8 < 8 by omega, show i / 8 = 2 by omega,
      show i % 8 = i - 8 - 8 by omega]
  · simp [h0, show ¬i - 8 < 8 by omega, show ¬i - 8 - 8 < 8 by omega, show i / 8 = 3 by omega,
      show i % 8 = i - 8 - 8 - 8 by omega]

/-- Word `j` of a payload holds the elements from `32 * j` on of its bit sequence (10_state.md R35). -/
theorem payloadToBits_wordAt (p : Vector Byte 32) {j i : Nat} (hj : j < 8) (hi : i < 32) :
    (payloadToBits p)[32 * j + i]? = some ((wordAt p j).getLsbD i) := by
  rw [payloadToBits_get p _ (by omega), wordAt_getLsbD p (by omega) hi]
  simp only [show (32 * j + i) / 8 = 4 * j + i / 8 by omega, show (32 * j + i) % 8 = i % 8 by omega]

/-- Settles O27, element by element: the definition for the sequence, and the bits of a word for what the host reads. -/
theorem payloadWordsAreTheBitSequence : Obligations.PayloadWordsAreTheBitSequence :=
  ⟨fun p => ⟨payloadToBits_length p, payloadToBits_get p⟩,
    fun r j _ hi => ⟨payloadToBits_wordAt r.payload j.isLt hi, payloadToBits_wordAt r.rpayload j.isLt hi⟩⟩

theorem bitsToPayload_payloadToBits (p : Vector Byte 32) (h : (payloadToBits p).length ≤ 256) :
    bitsToPayload (payloadToBits p) h = p := by
  apply Vector.ext
  intro j hj
  apply BitVec.eq_of_getLsbD_eq
  intro i hi
  have hbit := bitsToPayload_bit _ h (8 * j + i) (by omega)
  rw [payloadToBits_get p _ (by omega), Option.getD_some] at hbit
  simpa only [show (8 * j + i) / 8 = j by omega, show (8 * j + i) % 8 = i by omega] using hbit

theorem payloadToBits_bitsToPayload (b : List Bool) (h : b.length ≤ 256) :
    payloadToBits (bitsToPayload b h) = b ++ List.replicate (256 - b.length) false := by
  apply List.ext_getElem
  · simp; omega
  · intro k hk hk'
    rw [payloadToBits_length] at hk
    have hbit := payloadToBits_get (bitsToPayload b h) k hk
    rw [bitsToPayload_bit b h k hk, List.getElem?_eq_some_iff] at hbit
    obtain ⟨_, hbit⟩ := hbit
    rw [hbit, List.getElem_append]
    split
    · next hb => rw [List.getElem?_eq_getElem hb, Option.getD_some]
    · next hb => rw [List.getElem?_eq_none (by omega), Option.getD_none, List.getElem_replicate]

/-- Settles O31, bit by bit in both directions. -/
theorem bitMappingsAreInverse : Obligations.BitMappingsAreInverse :=
  ⟨fun p => ⟨(payloadToBits_length p).le, bitsToPayload_payloadToBits p _⟩, payloadToBits_bitsToPayload⟩

/-! ### Stripping zeros (40_codec.md R106) -/

theorem stripZeros_cons (b : Byte) (x : List Byte) :
    stripZeros (b :: x) = if stripZeros x = [] ∧ b = 0#8 then [] else b :: stripZeros x := by
  rw [stripZeros]
  cases stripZeros x with
  | nil => by_cases hb : b = 0#8 <;> simp [hb]
  | cons c y => simp

/-- What is stripped is zero bytes. -/
theorem exists_stripZeros_append_zeros (x : List Byte) : ∃ n : Nat, x = stripZeros x ++ List.replicate n 0#8 := by
  induction x with
  | nil => exact ⟨0, rfl⟩
  | cons b x ih =>
    obtain ⟨n, hn⟩ := ih
    rw [stripZeros_cons]
    split
    · next h =>
      obtain ⟨hx, rfl⟩ := h
      rw [hx, List.nil_append] at hn
      exact ⟨n + 1, by rw [hn, List.nil_append, List.replicate_succ]⟩
    · exact ⟨n, by rw [List.cons_append, ← hn]⟩

theorem stripZeros_getLast? (x : List Byte) : (stripZeros x).getLast? ≠ some 0#8 := by
  induction x with
  | nil => simp [stripZeros]
  | cons b x ih =>
    rw [stripZeros_cons]
    split
    · simp
    · next h =>
      cases hx : stripZeros x with
      | nil => simpa [hx] using h
      | cons c y => rwa [hx, ← List.getLast?_cons_cons (a := b)] at ih

/-- Settles O32: what is stripped is zeros, and what is left does not end in one. -/
theorem stripZerosIsTheLongestPrefix : Obligations.StripZerosIsTheLongestPrefix :=
  fun x => ⟨exists_stripZeros_append_zeros x, stripZeros_getLast? x⟩

theorem stripZeros_replicate_zero (n : Nat) : stripZeros (List.replicate n 0#8) = [] := by
  induction n with
  | zero => rfl
  | succ n ih => rw [List.replicate_succ, stripZeros_cons, if_pos ⟨ih, rfl⟩]

/-- Zeros at the end make no difference. -/
theorem stripZeros_append_zeros (x : List Byte) (n : Nat) : stripZeros (x ++ List.replicate n 0#8) = stripZeros x := by
  induction x with
  | nil => exact stripZeros_replicate_zero n
  | cons b x ih => rw [List.cons_append, stripZeros_cons, stripZeros_cons, ih]

theorem stripZeros_eq_self {x : List Byte} (h : x.getLast? ≠ some 0#8) : stripZeros x = x := by
  obtain ⟨n, hn⟩ := exists_stripZeros_append_zeros x
  cases n with
  | zero => simpa using hn.symm
  | succ n =>
    rw [List.replicate_succ', ← List.append_assoc] at hn
    rw [hn] at h
    simp at h

/-! ### The bytes of one scalar value (40_codec.md R101, R107) -/

/-- The byte strings of the table of R101 for the scalar value `u`, row by row. -/
inductive ScalarBytes (u : Nat) : List Byte → Prop
  | one (a : Byte) (hu : u ≤ 0x7F) (ha : a.toNat = u) : ScalarBytes u [a]
  | two (a b : Byte) (hlo : 0x80 ≤ u) (hhi : u ≤ 0x7FF) (ha : a.toNat = 0xC0 + u / 64) (hb : b.toNat = 0x80 + u % 64) :
    ScalarBytes u [a, b]
  | three (a b c : Byte) (hlo : 0x800 ≤ u) (hhi : u ≤ 0xFFFF) (hsur : u < 0xD800 ∨ 0xDFFF < u)
    (ha : a.toNat = 0xE0 + u / 4096) (hb : b.toNat = 0x80 + u / 64 % 64) (hc : c.toNat = 0x80 + u % 64) :
    ScalarBytes u [a, b, c]
  | four (a b c d : Byte) (hlo : 0x10000 ≤ u) (hhi : u ≤ 0x10FFFF) (ha : a.toNat = 0xF0 + u / 262144)
    (hb : b.toNat = 0x80 + u / 4096 % 64) (hc : c.toNat = 0x80 + u / 64 % 64) (hd : d.toNat = 0x80 + u % 64) :
    ScalarBytes u [a, b, c, d]

theorem byte_ofNat_toNat {n : Nat} (h : n ≤ 0xFF) : (BitVec.ofNat 8 n).toNat = n := by
  rw [BitVec.toNat_ofNat, Nat.mod_eq_of_lt (by omega)]

theorem scalarBytes_utf8encChar (c : Char) : ScalarBytes c.toNat (utf8encChar c) := by
  have hvalid : c.toNat < 0xD800 ∨ 0xDFFF < c.toNat ∧ c.toNat < 0x110000 := c.valid
  unfold utf8encChar
  simp only
  split_ifs
  · exact .one _ ‹_› (byte_ofNat_toNat (by omega))
  · exact .two _ _ (by omega) ‹_› (byte_ofNat_toNat (by omega)) (byte_ofNat_toNat (by omega))
  · exact .three _ _ _ (by omega) ‹_› (by omega) (byte_ofNat_toNat (by omega)) (byte_ofNat_toNat (by omega))
      (byte_ofNat_toNat (by omega))
  · exact .four _ _ _ _ (by omega) (by omega) (byte_ofNat_toNat (by omega)) (byte_ofNat_toNat (by omega))
      (byte_ofNat_toNat (by omega)) (byte_ofNat_toNat (by omega))

theorem ScalarBytes.unique {u v : Nat} {x : List Byte} (hu : ScalarBytes u x) (hv : ScalarBytes v x) : u = v := by
  cases hu <;> cases hv <;> omega

theorem ScalarBytes.length_pos {u : Nat} {x : List Byte} (h : ScalarBytes u x) : 0 < x.length := by
  cases h <;> simp

@[simp] theorem byteIn_cons_zero (b : Byte) (x : List Byte) (lo hi : Nat) :
    byteIn (b :: x) 0 lo hi = (decide (lo ≤ b.toNat) && decide (b.toNat ≤ hi)) := rfl

@[simp] theorem byteIn_cons_succ (b : Byte) (x : List Byte) (i lo hi : Nat) :
    byteIn (b :: x) (i + 1) lo hi = byteIn x i lo hi := rfl

/-- A row of the table of R107 accepts the bytes in its range, or another row does. -/
theorem row_eq_of_accepts {lead cont : Prop} [Decidable lead] [Decidable cont] {n other : Nat} (h : lead → cont)
    (hother : ¬lead → other = n) : (if lead then (if cont then n else 0) else other) = n := by
  split
  · next hl => exact if_pos (h hl)
  · next hl => exact hother hl

/-- The table of R107 accepts the bytes of a scalar value, whatever follows them: in the rows of three and four bytes the
range of the second byte leaves out only surrogates and values that are not in the row of R101. -/
theorem ScalarBytes.wfLen_append {u : Nat} {x : List Byte} (h : ScalarBytes u x) (t : List Byte) :
    wfLen (x ++ t) 0 = x.length := by
  cases h <;>
    simp only [wfLen, List.cons_append, List.nil_append, contByte, byteIn_cons_zero, byteIn_cons_succ, Bool.and_eq_true,
      decide_eq_true_eq, Nat.zero_add, List.length_cons, List.length_nil]
  case one => exact if_pos (by omega)
  case two => rw [if_neg (by omega), if_pos (by omega), if_pos (by omega)]
  case three =>
    rw [if_neg (by omega), if_neg (by omega)]
    exact row_eq_of_accepts (by omega) fun _ => row_eq_of_accepts (by omega) fun _ =>
      row_eq_of_accepts (by omega) fun _ => row_eq_of_accepts (by omega) fun _ => by omega
  case four =>
    rw [if_neg (by omega), if_neg (by omega), if_neg (by omega), if_neg (by omega), if_neg (by omega), if_neg (by omega)]
    exact row_eq_of_accepts (by omega) fun _ => row_eq_of_accepts (by omega) fun _ =>
      row_eq_of_accepts (by omega) fun _ => by omega

theorem utf8encChar_length_pos (c : Char) : 0 < (utf8encChar c).length := (scalarBytes_utf8encChar c).length_pos

theorem utf8encChar_injective : Function.Injective utf8encChar := fun c c' h =>
  Char.toNat_inj.1 ((scalarBytes_utf8encChar c).unique (h ▸ scalarBytes_utf8encChar c'))

theorem wfLen_utf8encChar_append (c : Char) (t : List Byte) : wfLen (utf8encChar c ++ t) 0 = (utf8encChar c).length :=
  (scalarBytes_utf8encChar c).wfLen_append t

theorem wfLen_of_utf8encChar_prefix {x : List Byte} {c : Char} (h : utf8encChar c <+: x) :
    wfLen x 0 = (utf8encChar c).length := by
  obtain ⟨t, rfl⟩ := h
  exact wfLen_utf8encChar_append c t

theorem ne_nil_of_wfLen_pos {x : List Byte} (h : 0 < wfLen x 0) : x ≠ [] := by
  rintro rfl
  exact absurd h (by decide)

theorem utf8enc_cons (c : Char) (s : List Char) : utf8enc (c :: s) = utf8encChar c ++ utf8enc s := rfl

/-- The bytes that a row of the table accepts encode a string, and its first scalar value is the one that stands there. -/
theorem exists_utf8encChar_prefix {x : List Byte} (h : 0 < wfLen x 0) : ∃ c : Char, utf8encChar c <+: x := by
  obtain ⟨s, hs⟩ := isUtf8_take_wfLen x
  cases s with
  | nil =>
    have hnil : x.take (wfLen x 0) = [] := hs.symm
    exact absurd (List.take_eq_nil_iff.1 hnil) (not_or.2 ⟨h.ne', ne_nil_of_wfLen_pos h⟩)
  | cons c s =>
    rw [utf8enc_cons] at hs
    exact ⟨c, (List.prefix_append _ _).trans (hs ▸ List.take_prefix _ _)⟩

/-- Settles O33: every row of R101 is accepted at its length, and what a row accepts begins with an encoded scalar value,
whose length is then the row's. -/
theorem wfLenRecognisesEncodedScalars : Obligations.WfLenRecognisesEncodedScalars := by
  have hdrop : ∀ (x : List Byte) (i : Nat), wfLen (x.drop i) 0 = wfLen x i := fun x i => wfLen_drop x i 0
  constructor
  · intro x i c hc
    rw [← hdrop, wfLen_of_utf8encChar_prefix hc]
  · intro x i h
    rw [← hdrop] at h ⊢
    obtain ⟨c, hc⟩ := exists_utf8encChar_prefix h
    exact ⟨c, hc, (wfLen_of_utf8encChar_prefix hc).symm⟩

/-! ### The filter (40_codec.md R108) -/

/-- The loop from an index on is the filter of what is left, with enough fuel. -/
theorem utf8Loop_eq_utf8Filter_drop {x : List Byte} {fuel i : Nat} (h : x.length - i ≤ fuel) :
    utf8Loop x fuel i = utf8Filter (x.drop i) := by
  have hshift : utf8Loop x fuel i = utf8Loop (x.drop i) fuel 0 := utf8Loop_shift fuel x i 0
  rw [hshift]
  exact utf8Loop_fuel _ _ _ _ (by simpa using h) (by simp)

/-- One turn of the filter's loop. -/
theorem utf8Filter_cons (b : Byte) (x : List Byte) :
    utf8Filter (b :: x) =
      if 0 < wfLen (b :: x) 0 then (b :: x).take (wfLen (b :: x) 0) ++ utf8Filter ((b :: x).drop (wfLen (b :: x) 0))
      else utf8Filter x := by
  rw [utf8Filter, List.length_cons, utf8Loop, if_pos (by simp), List.drop_zero, Nat.zero_add]
  split
  · rw [utf8Loop_eq_utf8Filter_drop (by simp; omega)]
  · rw [utf8Loop_eq_utf8Filter_drop (by simp), Nat.zero_add, List.drop_one, List.tail_cons]

theorem utf8Filter_of_wfLen_pos {x : List Byte} (h : 0 < wfLen x 0) :
    utf8Filter x = x.take (wfLen x 0) ++ utf8Filter (x.drop (wfLen x 0)) := by
  cases x with
  | nil => exact absurd rfl (ne_nil_of_wfLen_pos h)
  | cons b x => rw [utf8Filter_cons, if_pos h]

/-- An encoded scalar value is kept, and the filter goes on after it. -/
theorem utf8Filter_utf8encChar_append (c : Char) (t : List Byte) :
    utf8Filter (utf8encChar c ++ t) = utf8encChar c ++ utf8Filter t := by
  have hlen := wfLen_utf8encChar_append c t
  rw [utf8Filter_of_wfLen_pos (hlen ▸ utf8encChar_length_pos c), hlen, List.take_left, List.drop_left]

theorem utf8Filter_utf8enc (s : List Char) : utf8Filter (utf8enc s) = utf8enc s := by
  induction s with
  | nil => rfl
  | cons c s ih => rw [utf8enc_cons, utf8Filter_utf8encChar_append, ih]

theorem utf8Filter_eq_self {x : List Byte} (h : IsUtf8 x) : utf8Filter x = x := by
  obtain ⟨s, rfl⟩ := h
  exact utf8Filter_utf8enc s

/-- Settles O34: the turn of the loop, the invariants of the loop, and the encoded string kept scalar value by scalar value. -/
theorem utf8FilterKeepsWellFormedSequences : Obligations.Utf8FilterKeepsWellFormedSequences :=
  ⟨rfl, utf8Filter_cons, fun _ => ⟨isUtf8_utf8Loop _ _ _, utf8Loop_length_le _ _ 0⟩, utf8Filter_utf8enc⟩

/-! ### The identifiers of a payload (40_codec.md R109, R114) -/

/-- The first scalar value of an encoding is the only one whose bytes stand there. -/
theorem utf8encChar_append_inj {c c' : Char} {t t' : List Byte} (h : utf8encChar c ++ t = utf8encChar c' ++ t') :
    c = c' ∧ t = t' := by
  have hlen : (utf8encChar c).length = (utf8encChar c').length := by
    rw [← wfLen_utf8encChar_append c t, h, wfLen_utf8encChar_append]
  obtain ⟨hc, ht⟩ := List.append_inj h hlen
  exact ⟨utf8encChar_injective hc, ht⟩

theorem utf8enc_injective : Function.Injective utf8enc := by
  intro s s' h
  have hne : ∀ (c : Char) (t : List Char), utf8enc (c :: t) ≠ [] := fun c t e =>
    (utf8encChar_length_pos c).ne' (by rw [(List.append_eq_nil_iff.1 e).1, List.length_nil])
  induction s generalizing s' with
  | nil =>
    cases s' with
    | nil => rfl
    | cons c' s' => exact absurd h.symm (hne c' s')
  | cons c s ih =>
    cases s' with
    | nil => exact absurd h (hne c s)
    | cons c' s' =>
      obtain ⟨rfl, ht⟩ := utf8encChar_append_inj h
      rw [ih ht]

/-- Well-formed UTF-8 is the encoding of one string only. -/
theorem exists_unique_string_of_isUtf8 {x : List Byte} (h : IsUtf8 x) :
    ∃ s : List Char, utf8enc s = x ∧ ∀ s' : List Char, utf8enc s' = x → s' = s := by
  obtain ⟨s, hs⟩ := h
  exact ⟨s, hs, fun s' hs' => utf8enc_injective (hs'.trans hs.symm)⟩

/-- Settles O35: the filter's results are well formed, and the encoding of strings is injective. -/
theorem parsedIdentifiersAreStrings : Obligations.ParsedIdentifiersAreStrings :=
  fun p => ⟨rfl, parseIdentifiers_first_length_le p, parseIdentifiers_second_length_le p,
    exists_unique_string_of_isUtf8 (isUtf8_parseIdentifiers_first p),
    exists_unique_string_of_isUtf8 (isUtf8_parseIdentifiers_second p)⟩

/-- The sixteen bytes that an identifier takes up in a payload (40_codec.md R102). -/
def halfBytes (x : List Byte) : List Byte := x.take 16 ++ List.replicate (16 - x.length) 0#8

@[simp] theorem halfBytes_length (x : List Byte) : (halfBytes x).length = 16 := by
  rw [halfBytes, List.length_append, List.length_take, List.length_replicate]
  omega

theorem halfBytes_getElem (x : List Byte) {i : Nat} (hi : i < (halfBytes x).length) : (halfBytes x)[i] = half x i := by
  simp only [halfBytes, half, List.getElem_append]
  split
  · next h =>
    rw [List.length_take, Nat.min_comm] at h
    rw [List.getElem_take, if_pos h, List.getElem?_eq_getElem (by omega), Option.getD_some]
  · next h =>
    rw [List.length_take, Nat.min_comm] at h
    rw [List.getElem_replicate, if_neg h]

@[simp] theorem stripZeros_halfBytes (x : List Byte) : stripZeros (halfBytes x) = stripZeros (x.take 16) :=
  stripZeros_append_zeros _ _

@[simp] theorem buildPayload_take (d s : List Byte) : (buildPayload d s).toList.take 16 = halfBytes d := by
  apply List.ext_getElem
  · simp
  · intro i hi hi'
    rw [halfBytes_getElem, List.getElem_take, Vector.getElem_toList]
    exact buildPayload_low d s i (by simpa using hi')

@[simp] theorem buildPayload_drop (d s : List Byte) : (buildPayload d s).toList.drop 16 = halfBytes s := by
  apply List.ext_getElem
  · simp
  · intro i hi hi'
    rw [halfBytes_getElem, List.getElem_drop, Vector.getElem_toList]
    exact buildPayload_high d s i (by simpa using hi')

theorem parseIdentifiers_buildPayload (d s : List Byte) :
    parseIdentifiers (buildPayload d s) = (utf8Filter (stripZeros (d.take 16)), utf8Filter (stripZeros (s.take 16))) := by
  simp [parseIdentifiers]

/-- Settles O36: stripping removes the fill of each half; and neither stripping nor filtering changes such an identifier. -/
theorem identifiersSurviveThePayload : Obligations.IdentifiersSurviveThePayload := by
  refine ⟨parseIdentifiers_buildPayload, fun d hlen hutf8 hlast => ?_⟩
  rw [List.take_of_length_le hlen, stripZeros_eq_self hlast, utf8Filter_eq_self hutf8]

/-! ### Hexadecimal digits (40_codec.md R112) -/

/-- The sixteen digits, in order. -/
theorem hexDigit_digits : ∀ n < 16,
    ['0', '1', '2', '3', '4', '5', '6', '7', '8', '9', 'a', 'b', 'c', 'd', 'e', 'f'][n]? = some (hexDigit n) := by
  decide

/-- Two elements for each of a list stand at the even and the odd positions. -/
theorem getElem?_flatMap_pair {α β : Type} (f g : α → β) {l : List α} {j : Nat} (h : j < l.length) :
    (l.flatMap fun a => [f a, g a])[2 * j]? = some (f l[j]) ∧
      (l.flatMap fun a => [f a, g a])[2 * j + 1]? = some (g l[j]) := by
  induction l generalizing j with
  | nil => simp at h
  | cons a l ih =>
    cases j with
    | zero => simp
    | succ j => simpa [Nat.mul_succ] using ih (Nat.lt_of_succ_lt_succ h)

/-- Settles O37: the two characters of each byte are the digits of its halves. -/
theorem hexHasTwoDigitsPerByte : Obligations.HexHasTwoDigitsPerByte := by
  intro p
  refine ⟨by simp [hex, List.length_flatMap], fun j hj => ?_⟩
  have hbyte : p[j].toNat < 256 := p[j].isLt
  rw [hexDigit_digits _ (by omega), hexDigit_digits _ (by omega)]
  have hlen : j < p.toList.length := by simpa using hj
  exact getElem?_flatMap_pair _ _ hlen

end Sys2Proof.Machine
end

section
/-! SUPPORT AND PROOFS. The commands `BUILD` and `PARSE` (40_codec.md R110, R111). -/

namespace Sys2Proof.Machine

/-- A word of an assigned opcode with its reserved field not zero takes `E_RSVD` (30_encoding.md R86). -/
theorem reservedWordRaises_leastReserved {op : Nat} (hop : ¬OpUnassigned op) : ReservedWordRaises op (leastReserved op) := by
  rintro s w rest hp he rfl hlow
  exact step_illegal hp he ((decode_class w).eq_reserved_iff.2 ⟨hop, hlow⟩)

/-- A payload is its two halves. -/
theorem buildPayload_congr {d s d' s' : List Byte} (hd : ∀ i < 16, half d i = half d' i)
    (hs : ∀ i < 16, half s i = half s' i) : buildPayload d s = buildPayload d' s' := by
  apply Vector.ext
  intro i hi
  by_cases h : i < 16
  · rw [buildPayload_low _ _ i h, buildPayload_low _ _ i h, hd i h]
  · obtain ⟨k, rfl⟩ := Nat.exists_eq_add_of_le (Nat.le_of_not_lt h)
    rw [buildPayload_high _ _ k (by omega), buildPayload_high _ _ k (by omega), hs k (by omega)]

/-- The `setid` protocol stages an encoding's half of the payload: a saturated length is still above 16 (30_encoding.md
R89). -/
theorem half_stagedId_of_setid {len : BitVec 16} {b : Vector Byte 16} {e : List Byte}
    (hlen : len.toNat = min e.length 65535) (hb : ∀ (i : Nat) (_ : i < 16) (_ : i < e.length), b[i] = e[i]) (i : Nat)
    (hi : i < 16) : half (stagedId len b) i = half e i := by
  rw [half_staged len b i hi, half]
  by_cases h : i < e.length
  · rw [if_pos (by omega), if_pos (by omega), hb i hi h, List.getElem?_eq_getElem h, Option.getD_some]
  · rw [if_neg (by omega), if_neg (by omega)]

theorem execBuild_done {s : State} (he : NoError s) : exec .build s = .next (buildEffect s).finish :=
  exec_done (by nofun) he rfl

theorem execParse_done {s : State} (he : NoError s) : exec .parse s = .next (parseEffect s).finish :=
  exec_done (by nofun) he rfl

/-- Settles O9: the effect's payload byte by byte, and its halves equal to those of the encodings that `setid` staged. -/
theorem buildMarshalsStagedBytes : Obligations.BuildMarshalsStagedBytes := by
  refine ⟨by decide, reservedWordRaises_leastReserved (op := 0x01) (by simp [OpUnassigned]), fun s he => ?_,
    fun s d e he hd he' hdb heb => ?_⟩
  · refine ⟨_, execBuild_done he, fun i hi => ?_, fun i hi => ?_⟩
    · exact (buildPayload_low _ _ i hi).trans (half_staged _ _ i hi)
    · exact (buildPayload_high _ _ i hi).trans (half_staged _ _ i hi)
  · rw [execBuild_done he, ← buildPayload_congr (half_stagedId_of_setid hd hdb) (half_stagedId_of_setid he' heb)]
    rfl

/-- Settles O10: the effect's registers hold the parsed identifiers, their lengths and zero fill. -/
theorem parseSplitsThePayload : Obligations.ParseSplitsThePayload := by
  refine ⟨by decide, reservedWordRaises_leastReserved (op := 0x06) (by simp [OpUnassigned]), fun s he => ?_⟩
  exact ⟨_, _, _, _, execParse_done he, parseEffect_rdevLen s, parseEffect_rsesLen s, idBytes_get _, idBytes_get _⟩

end Sys2Proof.Machine
end

section
/-! SUPPORT AND PROOFS. The arithmetic of one sample (41_embedder.md R135, R139). -/

namespace Sys2Proof.Machine

/-! ### The clipped sample -/

/-- `v2`, the sample moved by the strength and clipped, in units of 1/256 (41_embedder.md R135). -/
def clippedSample (x : Byte) (b : Option Bool) (S : BitVec 16) : Nat :=
  (min (max (movedSample x.toNat b S.toNat) 0) 65280).toNat

theorem embedSample_eq_roundSample (rnd : Rnd) (x : Byte) (b : Option Bool) (S : BitVec 16) :
    (embedSample rnd x b S).toNat = roundSample rnd (clippedSample x b S) :=
  embedSample_toNat rnd x b S

/-- The clip in units of 1/256 is the document's clip to 0..255 of the exact sum (41_embedder.md R139). -/
theorem clippedSample_div (x : Byte) (b : Bool) (S : BitVec 16) :
    (clippedSample x (some b) S : ℚ) / 256 =
      min (max (if b then (x.toNat : ℚ) + (S.toNat : ℚ) / 256 else (x.toNat : ℚ) - (S.toNat : ℚ) / 256) 0) 255 := by
  have hcast : (clippedSample x (some b) S : ℚ) = min (max (movedSample x.toNat (some b) S.toNat : ℚ) 0) 65280 := by
    have : (clippedSample x (some b) S : ℤ) = min (max (movedSample x.toNat (some b) S.toNat) 0) 65280 :=
      Int.toNat_of_nonneg (by omega)
    exact_mod_cast congrArg (Int.cast (R := ℚ)) this
  have hmoved : (movedSample x.toNat (some b) S.toNat : ℚ) / 256 =
      if b then (x.toNat : ℚ) + (S.toNat : ℚ) / 256 else (x.toNat : ℚ) - (S.toNat : ℚ) / 256 := by
    cases b <;> simp [movedSample, add_div, sub_div]
  rw [hcast, ← min_div_div_right (by norm_num), ← max_div_div_right (by norm_num), hmoved]
  norm_num

/-! ### The three roundings -/

theorem roundSample_halfUp (v : Nat) : (roundSample .halfUp v : ℤ) = ⌊(v : ℚ) / 256 + 1 / 2⌋ := by
  have h : (v : ℚ) / 256 + 1 / 2 = ((v + 128 : ℕ) : ℚ) / (256 : ℕ) := by push_cast; ring
  rw [h, Rat.floor_natCast_div_natCast]
  rfl

theorem roundSample_truncate (v : Nat) : (roundSample .truncate v : ℤ) = ⌊(v : ℚ) / 256⌋ :=
  (Rat.floor_natCast_div_natCast v 256).symm

/-- Half to even in units of 1/256: within half a step, and on an even number when half a step off. -/
theorem roundSample_halfEven_units (v : Nat) :
    256 * roundSample .halfEven v ≤ v + 128 ∧ v ≤ 256 * roundSample .halfEven v + 128 ∧
      (v = 256 * roundSample .halfEven v + 128 ∨ v + 128 = 256 * roundSample .halfEven v →
        roundSample .halfEven v % 2 = 0) := by
  rw [roundSample]
  split <;> omega

theorem roundSample_halfEven (v : Nat) :
    |(v : ℚ) / 256 - roundSample .halfEven v| ≤ 1 / 2 ∧
      (|(v : ℚ) / 256 - roundSample .halfEven v| = 1 / 2 → roundSample .halfEven v % 2 = 0) := by
  obtain ⟨hlo, hhi, heven⟩ := roundSample_halfEven_units v
  generalize roundSample .halfEven v = y at hlo hhi heven ⊢
  have hlo : (256 * y : ℚ) ≤ v + 128 := by exact_mod_cast hlo
  have hhi : (v : ℚ) ≤ 256 * y + 128 := by exact_mod_cast hhi
  refine ⟨abs_le.2 ⟨by linarith, by linarith⟩, fun h => heven ?_⟩
  obtain h | h := (abs_eq (by norm_num)).1 h
  · have hup : (v : ℚ) = 256 * y + 128 := by linarith
    exact .inl (by exact_mod_cast hup)
  · have hdown : (v : ℚ) + 128 = 256 * y := by linarith
    exact .inr (by exact_mod_cast hdown)

/-- A whole sample is fixed by every rounding. -/
theorem roundSample_mul (rnd : Rnd) (n : Nat) : roundSample rnd (256 * n) = n := by
  cases rnd <;> simp only [roundSample]
  · omega
  · rw [if_neg (by omega)]
    omega
  · omega

/-- Settles O38: the clipped sample over 256 is the document's clipped sum, and each rounding is the exact one of it. -/
theorem embedSampleIsExact : Obligations.EmbedSampleIsExact := by
  intro x b S _
  dsimp only
  rw [← clippedSample_div]
  simp only [embedSample_eq_roundSample]
  exact ⟨roundSample_halfUp _, roundSample_truncate _, roundSample_halfEven _⟩

/-! ### Whole strengths -/

/-- A clipped sample that is whole needs no rounding. -/
theorem embedSample_of_clipped {x : Byte} {b : Option Bool} {S : BitVec 16} {n : Nat} (h : clippedSample x b S = 256 * n)
    (rnd : Rnd) : (embedSample rnd x b S).toNat = n := by
  rw [embedSample_eq_roundSample, h, roundSample_mul]

/-- A pixel in no block is copied. -/
@[simp] theorem embedSample_none (rnd : Rnd) (x : Byte) (S : BitVec 16) : embedSample rnd x none S = x := by
  apply BitVec.eq_of_toNat_eq
  apply embedSample_of_clipped
  have := x.isLt
  simp only [clippedSample, movedSample]
  omega

theorem embedSample_up {S : BitVec 16} {n : Nat} (hS : S.toNat = 256 * n) (rnd : Rnd) (x : Byte) :
    (embedSample rnd x (some true) S).toNat = min (x.toNat + n) 255 := by
  apply embedSample_of_clipped
  simp only [clippedSample, movedSample]
  omega

theorem embedSample_down {S : BitVec 16} {n : Nat} (hS : S.toNat = 256 * n) (rnd : Rnd) (x : Byte) :
    (embedSample rnd x (some false) S).toNat = x.toNat - n := by
  have := x.isLt
  apply embedSample_of_clipped
  simp only [clippedSample, movedSample]
  omega

/-- Settles O39: at a whole strength the clipped sample is whole. -/
theorem integerStrengthNeedsNoRounding : Obligations.IntegerStrengthNeedsNoRounding := by
  refine ⟨fun rnd x S h => ?_, embedSample_none⟩
  have hS : S.toNat = 256 * (S.toNat / 256) := by omega
  exact ⟨embedSample_up hS rnd x, embedSample_down hS rnd x⟩

end Sys2Proof.Machine
end

section
/-! SUPPORT AND PROOFS. The command `EMBED` (41_embedder.md R137): what DST holds after it, in the words of Safety.lean. -/

namespace Sys2Proof.Machine

/-! ### The bit of a pixel -/

/-- The payload bit that a pixel of the image in SRC carries, none outside the complete blocks (41_embedder.md R136). -/
def pixelBit (s : State) (r c : Nat) : Option Bool := (s.srcGrid.blockOf r c).map (bitOf s.regs.payload)

theorem bitOf_eq_payloadToBits (p : Vector Byte 32) (k : Nat) : some (bitOf p k) = (payloadToBits p)[k % 256]? := by
  simp [bitOf, payloadToBits, Nat.mod_lt]

theorem srcGrid_blockOf (s : State) (r c : Nat) :
    s.srcGrid.blockOf r c =
      if r < 8 * (s.regs.imgH.toNat / 8) ∧ c < 8 * (s.regs.imgW.toNat / 8) then
        some (r / 8 * (s.regs.imgW.toNat / 8) + c / 8)
      else none := rfl

theorem pixelBit_eq (s : State) (r c : Nat) :
    pixelBit s r c =
      if r < 8 * (s.regs.imgH.toNat / 8) ∧ c < 8 * (s.regs.imgW.toNat / 8) then
        (payloadToBits s.regs.payload)[(r / 8 * (s.regs.imgW.toNat / 8) + c / 8) % 256]?
      else none := by
  rw [pixelBit, srcGrid_blockOf]
  split
  · exact bitOf_eq_payloadToBits _ _
  · rfl

/-- With no complete block no pixel carries a bit. -/
theorem pixelBit_of_small {s : State} (h : s.regs.imgH.toNat < 8 ∨ s.regs.imgW.toNat < 8) (r c : Nat) :
    pixelBit s r c = none := by
  rw [pixelBit_eq, if_neg (by omega)]

/-- Block `k` lies on the image: its row of blocks and its column of blocks are complete (41_embedder.md R132). -/
theorem block_position_lt {s : State} {k : Nat} (hk : k < blockCount s) :
    k / (s.regs.imgW.toNat / 8) < s.regs.imgH.toNat / 8 ∧
      k % (s.regs.imgW.toNat / 8) < s.regs.imgW.toNat / 8 := by
  rw [blockCount, Nat.mul_comm] at hk
  exact ⟨Nat.div_lt_of_lt_mul hk, Nat.mod_lt _ (Nat.pos_of_lt_mul_right hk)⟩

/-- Every pixel of block `k` carries bit `k mod 256`. -/
theorem pixelBit_of_block {s : State} {i j k : Nat} (hi : i < 8) (hj : j < 8) (hk : k < blockCount s) :
    pixelBit s (8 * (k / (s.regs.imgW.toNat / 8)) + i) (8 * (k % (s.regs.imgW.toNat / 8)) + j) =
      (payloadToBits s.regs.payload)[k % 256]? := by
  obtain ⟨hrow, hcol⟩ := block_position_lt hk
  rw [pixelBit_eq, if_pos (by omega), Nat.mul_add_div (by omega), Nat.mul_add_div (by omega), Nat.div_eq_of_lt hi,
    Nat.div_eq_of_lt hj, Nat.add_zero, Nat.add_zero, Nat.div_add_mod']

/-! ### What the command leaves -/

theorem execEmbed_done {s : State} (he : NoError s) (hc : ChannelsLegal s .src) (hs : ImageFits s .src)
    (hd : ImageFits s .dst) (hz : s.regs.strength ≠ 0#16) : exec .embed s = .next (embedEffect s).finish :=
  exec_done (by nofun) he (embedCheck_none hc hs hd hz)

theorem embedded_px {s : State} (hc : ChannelsLegal s .src) (r c : Nat) :
    s.embedded.px r c = embedSample s.cfg.rnd (BitVec.ofNat 8 (sampleOf s .src r c)) (pixelBit s r c) s.regs.strength := by
  rw [← grid_px_toNat s .src hc, BitVec.ofNat_toNat, BitVec.setWidth_eq]
  rfl

theorem embedEffect_readByte (s : State) (a : Nat) :
    (embedEffect s).readByte .dst a =
      if h : a < s.embedded.bytes.length then s.embedded.bytes[a] else s.readByte .dst a :=
  State_readByte_storeDst s _ a

/-- DST after `EMBED`, pixel by pixel. -/
theorem embedEffect_readByte_pixel {s : State} (hc : ChannelsLegal s .src) {r c : Nat} (hr : r < s.regs.imgH.toNat)
    (hw : c < s.regs.imgW.toNat) :
    (embedEffect s).readByte .dst (r * s.regs.imgW.toNat + c) =
      embedSample s.cfg.rnd (BitVec.ofNat 8 (sampleOf s .src r c)) (pixelBit s r c) s.regs.strength := by
  have hget : s.embedded.bytes[r * s.regs.imgW.toNat + c]? = some (s.embedded.px r c) := Grid.bytes_get s.embedded hr hw
  obtain ⟨hlt, hval⟩ := List.getElem?_eq_some_iff.1 hget
  rw [embedEffect_readByte, dif_pos hlt, hval, embedded_px hc]

/-- DST above the image is left alone by `EMBED`. -/
theorem embedEffect_readByte_above {s : State} {a : Nat} (ha : s.regs.imgH.toNat * s.regs.imgW.toNat ≤ a) :
    (embedEffect s).readByte .dst a = s.readByte .dst a := by
  have hlen : s.embedded.bytes.length = s.regs.imgH.toNat * s.regs.imgW.toNat := Grid.bytes_length _
  rw [embedEffect_readByte, dif_neg (by omega)]

/-- The sample that a scan of DST finds after `EMBED`. -/
theorem sampleOf_embedEffect {s : State} (hc : ChannelsLegal s .src) {r c : Nat} (hr : r < s.regs.imgH.toNat)
    (hw : c < s.regs.imgW.toNat) :
    sampleOf (embedEffect s).finish .dst r c =
      (embedSample s.cfg.rnd (BitVec.ofNat 8 (sampleOf s .src r c)) (pixelBit s r c) s.regs.strength).toNat := by
  rw [← embedEffect_readByte_pixel hc hr hw, ← State_readByte_finish]
  rfl

theorem toNat_ofNat_sampleOf {s : State} (hc : ChannelsLegal s .src) (r c : Nat) :
    (BitVec.ofNat 8 (sampleOf s .src r c)).toNat = sampleOf s .src r c :=
  Nat.mod_eq_of_lt (sampleOf_lt s .src hc r c)

/-- Settles O11: the checks in their order, and the effect's bytes in the image and above it. -/
theorem embedWritesTheMarkedGrid : Obligations.EmbedWritesTheMarkedGrid := by
  refine ⟨by decide, reservedWordRaises_leastReserved (op := 0x02) (by simp [OpUnassigned]), fun s he => ⟨?_, ?_, ?_, ?_⟩⟩
  · intro hc
    exact exec_raised (i := .embed) (by nofun) he (embedCheck_chan hc)
  · intro hc hf
    exact exec_raised (i := .embed) (by nofun) he (embedCheck_size hc hf)
  · intro hc hs hd hz
    exact exec_raised (i := .embed) (by nofun) he (embedCheck_param hc hs hd hz)
  · intro hc hs hd hz
    refine ⟨_, execEmbed_done he hc hs hd hz, rfl, fun r c hr hw => ?_, fun a ha => ?_⟩
    · rw [State_readByte_finish, embedEffect_readByte_pixel hc hr hw, pixelBit_eq]
    · rw [State_readByte_finish, embedEffect_readByte_above ha]

/-- Settles O41: no pixel carries a bit, so each is copied. -/
theorem smallImagesAreCopied : Obligations.SmallImagesAreCopied := by
  intro s he hc hs hd hz hsmall
  refine ⟨_, execEmbed_done he hc hs hd hz, fun r c hr hw => ?_⟩
  rw [State_readByte_finish, embedEffect_readByte_pixel hc hr hw, pixelBit_of_small hsmall, embedSample_none,
    toNat_ofNat_sampleOf hc]

/-- Settles O42: `EMBED` changes nothing that its checks or its grid read, so that the second stores the bytes of the first. -/
theorem embeddingTwiceIsEmbeddingOnce : Obligations.EmbeddingTwiceIsEmbeddingOnce := by
  intro s he hc hs hd hz
  refine ⟨_, _, execEmbed_done he hc hs hd hz, execEmbed_done (s := (embedEffect s).finish) he hc hs hd hz, rfl, rfl, ?_⟩
  intro a
  have hgrid : (embedEffect s).finish.embedded = s.embedded := rfl
  simp only [State_readByte_finish, embedEffect_readByte, hgrid]
  split <;> rfl

/-! ### Block sums -/

/-- The sum of a block whose 64 samples are those of another state's block moved up by `n`. -/
theorem blockSumOf_add {s t : State} {m m' : Space} {n k w : Nat} (hs : s.regs.imgW.toNat = w) (ht : t.regs.imgW.toNat = w)
    (h : ∀ i j : Nat, i < 8 → j < 8 →
      sampleOf t m' (8 * (k / (w / 8)) + i) (8 * (k % (w / 8)) + j) =
        sampleOf s m (8 * (k / (w / 8)) + i) (8 * (k % (w / 8)) + j) + n) :
    blockSumOf t m' k = blockSumOf s m k + 64 * n := by
  subst hs
  rw [blockSumOf, ht, Finset.sum_congr rfl fun i hi => Finset.sum_congr rfl fun j hj =>
    h i j (Finset.mem_range.1 hi) (Finset.mem_range.1 hj)]
  simp only [Finset.sum_add_distrib, blockSumOf, Finset.sum_const, Finset.card_range, smul_eq_mul]
  omega

/-- The sample of a block's pixel after `EMBED`. -/
theorem sampleOf_embedEffect_block {s : State} (hc : ChannelsLegal s .src) {i j k : Nat} (hi : i < 8) (hj : j < 8)
    (hk : k < blockCount s) :
    sampleOf (embedEffect s).finish .dst (8 * (k / (s.regs.imgW.toNat / 8)) + i) (8 * (k % (s.regs.imgW.toNat / 8)) + j) =
      (embedSample s.cfg.rnd (BitVec.ofNat 8
          (sampleOf s .src (8 * (k / (s.regs.imgW.toNat / 8)) + i) (8 * (k % (s.regs.imgW.toNat / 8)) + j)))
        (payloadToBits s.regs.payload)[k % 256]? s.regs.strength).toNat := by
  obtain ⟨hrow, hcol⟩ := block_position_lt hk
  rw [sampleOf_embedEffect hc (by omega) (by omega), pixelBit_of_block hi hj hk]

/-- Settles O40: no sample of the block is clipped, so that each is moved by exactly `n`. -/
theorem embedMovesBlockSums : Obligations.EmbedMovesBlockSums := by
  intro s n k he hc hs hd hn hS hk hrange
  have hz : s.regs.strength ≠ 0#16 := by
    intro h
    rw [h, BitVec.toNat_zero] at hS
    omega
  refine ⟨_, execEmbed_done he hc hs hd hz, fun hbit => ?_, fun hbit => ?_⟩
  · refine blockSumOf_add (w := s.regs.imgW.toNat) rfl rfl fun i j hi hj => ?_
    rw [sampleOf_embedEffect_block hc hi hj hk, hbit, embedSample_up hS, toNat_ofNat_sampleOf hc]
    exact Nat.min_eq_left (hrange i j hi hj).2
  · symm
    refine blockSumOf_add (w := s.regs.imgW.toNat) rfl rfl fun i j hi hj => ?_
    rw [sampleOf_embedEffect_block hc hi hj hk, hbit, embedSample_down hS, toNat_ofNat_sampleOf hc]
    exact (Nat.sub_add_cancel (hrange i j hi hj).1).symm

end Sys2Proof.Machine
end

section
/-! SUPPORT AND PROOFS. The detector's pure functions: the median (42_detector.md R154), the classifier's bits (R156), and
the confidence (R159). -/

namespace Sys2Proof.Machine

/-! ### The median (42_detector.md R154) -/

theorem median2_of_sorted {x y : List Nat} (hp : y.Perm x) (hy : y.Pairwise (· ≤ ·)) : median2 x = median2Sorted y := by
  have hsort : x.insertionSort (· ≤ ·) = y :=
    ((List.perm_insertionSort _ x).trans hp.symm).eq_of_pairwise' (List.pairwise_insertionSort _ x) hy
  rw [median2, hsort]

theorem median2Sorted_of_odd {y : List Nat} (h : y.length % 2 = 1) :
    median2Sorted y = 2 * y[(y.length - 1) / 2]?.getD 0 := by
  rw [median2Sorted, if_neg (by omega), if_pos h]

theorem median2Sorted_of_even {y : List Nat} (h : y.length % 2 = 0) (hpos : 0 < y.length) :
    median2Sorted y = y[y.length / 2 - 1]?.getD 0 + y[y.length / 2]?.getD 0 := by
  rw [median2Sorted, if_neg (by omega), if_neg (by omega)]

/-- Settles O43: a list has one non-decreasing arrangement, and the median is read off it. -/
theorem medianOfAnySortedArrangement : Obligations.MedianOfAnySortedArrangement := by
  intro x y hp hy
  rw [median2_of_sorted hp hy]
  refine ⟨fun h => if_pos h, median2Sorted_of_odd, median2Sorted_of_even, fun hx => ?_⟩
  rw [← median2_of_sorted hp hy]
  exact median2_le x 16320 hx

/-! ### The classifier's bits (42_detector.md R156) -/

@[simp] theorem classifyBits_length (x : List Nat) (t2 : Nat) : (classifyBits x t2).length = 256 := by
  simp [classifyBits]

theorem classifyBits_get (x : List Nat) (t2 : Nat) {k : Nat} (hk : k < 256) :
    (classifyBits x t2)[k]? = some (classifyBit x t2 k) := by
  simp [classifyBits, hk]

theorem classifyBit_of_lt {x : List Nat} {k : Nat} (hk : k < x.length) (t2 : Nat) :
    classifyBit x t2 k = decide (t2 < 2 * x[k]) := by
  rw [classifyBit, List.getElem?_eq_getElem hk]

theorem classifyBit_of_ge {x : List Nat} {k : Nat} (hk : x.length ≤ k) (t2 : Nat) : classifyBit x t2 k = false := by
  rw [classifyBit, List.getElem?_eq_none hk]

/-- With no block above the threshold every bit is 0. -/
theorem classifyBits_eq_zeros {x : List Nat} {t2 : Nat} (h : ∀ k, classifyBit x t2 k = false) :
    classifyBits x t2 = List.replicate 256 false := by
  rw [List.eq_replicate_iff]
  refine ⟨classifyBits_length x t2, fun b hb => ?_⟩
  obtain ⟨k, -, rfl⟩ := List.mem_map.1 hb
  exact h k

/-! ### The confidence (42_detector.md R158, R159) -/

/-- Settles O44: ones and zeros together are 256, so that the larger is at least half of them, and all of them when the
other is none. -/
theorem confidenceRange : Obligations.ConfidenceRange := by
  intro b hb
  have hcount : b.count true + b.count false = 256 := by rw [List.count_true_add_count_false, hb]
  have hall : ∀ v, b.count v = 256 ↔ b = List.replicate 256 v := fun v => by
    rw [← hb, List.count_eq_length, List.eq_replicate_iff]
    simp [eq_comm]
  refine ⟨rfl, confidenceNum_ge b, confidenceNum_le b hb.le, ?_⟩
  rw [← hall, ← hall, confidenceNum]
  omega

end Sys2Proof.Machine
end

section
/-! SUPPORT AND PROOFS. The commands of the detector's stages, `LUMA`, `THRESH`, `CLASSIFY` and `SCORE` (42_detector.md R152,
R155, R157, R161), and `DETECT` as the five stages in order (R163). -/

namespace Sys2Proof.Machine

/-! ### The checks of a scan (60_exceptions.md R202) -/

/-- The two errors of a command that checks the image it scans, in their order. -/
theorem exec_scan_errors {i : Instr} {m : Space} {s : State} (hi : i ≠ .srst) (hcheck : checkOf s i = s.scanCheck m)
    (he : NoError s) :
    (¬ChannelsLegal s m → exec i s = .next (errorTaken 3#4 (encode i) s)) ∧
      (ChannelsLegal s m → ¬ImageFits s m → exec i s = .next (errorTaken 4#4 (encode i) s)) :=
  ⟨fun hc => exec_raised hi he (hcheck.trans (scanCheck_chan hc)),
    fun hc hf => exec_raised hi he (hcheck.trans (scanCheck_size hc hf))⟩

theorem execLuma_done {m : Space} {s : State} (he : NoError s) (hc : ChannelsLegal s m) (hf : ImageFits s m) :
    exec (.luma m) s = .next (lumaEffect m s).finish :=
  exec_done (by nofun) he (scanCheck_none hc hf)

theorem execThresh_done {s : State} (he : NoError s) : exec .thresh s = .next (threshEffect s).finish :=
  exec_done (by nofun) he rfl

theorem execClassify_done {s : State} (he : NoError s) : exec .classify s = .next (classifyEffect s).finish :=
  exec_done (by nofun) he rfl

theorem execScore_done {s : State} (he : NoError s) : exec .score s = .next (scoreEffect s).finish :=
  exec_done (by nofun) he rfl

/-! ### The stages -/

theorem lumaEffect_nblk (m : Space) (s : State) : (lumaEffect m s).regs.nblk.toNat = min (blockCount s) 256 :=
  (nblk_ofNat_scanned _).trans (Grid.scanned_eq s m)

/-- Settles O12: the checks in their order, and the effect's registers hold the count and the sums of the scanned blocks. -/
theorem lumaExtractsBlockSums : Obligations.LumaExtractsBlockSums := by
  refine ⟨by decide, by decide, reservedWordRaises_leastReserved (op := 0x03) (by simp [OpUnassigned]), fun m s he => ?_⟩
  obtain ⟨hchan, hsize⟩ := exec_scan_errors (i := .luma m) (by nofun) rfl he
  exact ⟨hchan, hsize, fun hc hf => ⟨_, _, execLuma_done he hc hf, lumaEffect_nblk m s, Grid.sumRegs_get s m hc⟩⟩

/-- Settles O13: the effect's threshold is twice the median of the sums below `NBLK`. -/
theorem threshTakesTheMedian : Obligations.ThreshTakesTheMedian := by
  refine ⟨by decide, reservedWordRaises_leastReserved (op := 0x04) (by simp [OpUnassigned]), fun s he hn => ?_⟩
  refine ⟨_, execThresh_done he, ?_⟩
  rw [← Regs.sums_eq _ hn]
  exact threshEffect_thr2 s

/-- One decision of the classifier on the registers (42_detector.md R157). -/
theorem classifyBit_sums {r : Regs} (hn : r.nblk.toNat ≤ 256) (t2 k : Nat) (hk : k < 256) :
    classifyBit r.sums t2 k = decide (k < r.nblk.toNat ∧ t2 < 2 * r.sum[k].toNat) := by
  have hlen : r.sums.length = r.nblk.toNat := by simp [Regs.sums_eq r hn]
  by_cases h : k < r.nblk.toNat
  · rw [classifyBit_of_lt (hlen.symm ▸ h)]
    simp [Regs.sums_eq r hn, h, hk]
  · rw [classifyBit_of_ge (by omega)]
    simp [h]

theorem classifyEffect_rpayload_bit (s : State) {k : Nat} (hk : k < 256) :
    (classifyEffect s).regs.rpayload[k / 8].getLsbD (k % 8) = classifyBit s.regs.sums s.regs.thr2.toNat k := by
  refine (bitsToPayload_bit _ (classifyBits_length_le _ _) k hk).trans ?_
  rw [classifyBits_get _ _ hk, Option.getD_some]

/-- Settles O14: bit `k` of the packed payload is the classifier's decision on block `k`. -/
theorem classifyPacksTheBits : Obligations.ClassifyPacksTheBits := by
  refine ⟨by decide, reservedWordRaises_leastReserved (op := 0x05) (by simp [OpUnassigned]), fun s he hn => ?_⟩
  exact ⟨_, execClassify_done he, fun k hk => (classifyEffect_rpayload_bit s hk).trans (classifyBit_sums hn _ k hk)⟩

theorem count_true_map_range (f : Nat → Bool) (n : Nat) :
    ((List.range n).map f).count true = ∑ k ∈ Finset.range n, (f k).toNat := by
  induction n with
  | zero => rfl
  | succ n ih =>
    rw [List.range_succ, List.map_append, List.count_append, ih, Finset.sum_range_succ]
    cases hn : f n <;> simp [hn]

/-- The one bits of a payload, byte by byte (42_detector.md R158). -/
theorem count_payloadToBits (p : Vector Byte 32) :
    (payloadToBits p).count true = ∑ j : Fin 32, ∑ i : Fin 8, (p[j].getLsbD i.val).toNat := by
  have hbit : ∀ (j : Fin 32) (i : Fin 8), payloadBit p (i.val + 8 * j.val) = p[j].getLsbD i.val := fun j i => by
    simp [payloadBit, show (i.val + 8 * j.val) / 8 = j.val by omega, show (i.val + 8 * j.val) % 8 = i.val by omega]
  calc (payloadToBits p).count true
      = ∑ k : Fin (32 * 8), (payloadBit p k.val).toNat := by
        rw [payloadToBits, count_true_map_range, Finset.sum_range]
    _ = ∑ q : Fin 32 × Fin 8, (payloadBit p (q.2.val + 8 * q.1.val)).toNat :=
        (Equiv.sum_comp finProdFinEquiv fun k : Fin (32 * 8) => (payloadBit p k.val).toNat).symm
    _ = ∑ j : Fin 32, ∑ i : Fin 8, (p[j].getLsbD i.val).toNat := by
        simp only [hbit, Fintype.sum_prod_type]

theorem scoreEffect_found (s : State) :
    (scoreEffect s).regs.found = decide (0 < s.regs.rdevLen.toNat ∧ 128 < (scoreEffect s).regs.conf.toNat) := by
  rw [scoreEffect_conf, Bool.decide_and]
  rfl

/-- Settles O15: the effect's confidence is that of the payload's bits, and `FOUND` compares the same number. -/
theorem scoreCountsTheMajority : Obligations.ScoreCountsTheMajority := by
  refine ⟨by decide, reservedWordRaises_leastReserved (op := 0x07) (by simp [OpUnassigned]), fun s he => ?_⟩
  refine ⟨_, _, execScore_done he, ?_, scoreEffect_found s⟩
  rw [← count_payloadToBits]
  exact scoreEffect_conf s

/-! ### `DETECT` as the five stages (42_detector.md R163) -/

/-- No stage reads or writes `DONE`, so that setting it after each stage leaves what setting it once leaves. -/
theorem stages_finish (m : Space) (s : State) :
    (scoreEffect (parseEffect (classifyEffect (threshEffect (lumaEffect m s).finish).finish).finish).finish).finish =
      (detectEffect m s).finish := rfl

/-- Settles O16: no stage fails or changes `ERR`, and `DONE` may as well be set once. -/
theorem detectIsTheFiveStages : Obligations.DetectIsTheFiveStages := by
  refine ⟨by decide, by decide, reservedWordRaises_leastReserved (op := 0x08) (by simp [OpUnassigned]), fun m s he => ?_⟩
  obtain ⟨hchan, hsize⟩ := exec_scan_errors (i := .detect m) (by nofun) rfl he
  refine ⟨hchan, hsize, fun hc hf => ?_⟩
  refine ⟨_, _, _, _, _, execLuma_done he hc hf, execThresh_done he, execClassify_done he, execParse_done he,
    execScore_done he, ?_⟩
  rw [stages_finish]
  exact execDetect_done he hc hf

end Sys2Proof.Machine
end

section
/-! SUPPORT AND PROOFS. The whole detector: the registers after `DETECT` as functions of the grid scanned (42_detector.md
R163, R164), an image with no complete block, and what `LUMA` reads of an image (R150). -/

namespace Sys2Proof.Machine

/-! ### The detector's intermediate results, as functions of the grid -/

/-- The block sums of the scanned blocks (42_detector.md R151). -/
def Grid.scanSums (g : Grid) : List Nat := (List.range g.scanned).map g.blockSum

/-- The decoded bits (42_detector.md R156). -/
def Grid.decodedBits (g : Grid) : List Bool := classifyBits g.scanSums (median2 g.scanSums)

theorem Grid.decodedBits_length (g : Grid) : g.decodedBits.length = 256 := classifyBits_length _ _

/-- The decoded payload (42_detector.md R157). -/
def Grid.decodedPayload (g : Grid) : Vector Byte 32 := bitsToPayload g.decodedBits g.decodedBits_length.le

theorem detect_eq (g : Grid) :
    detect g =
      { found := foundFlag (parseIdentifiers g.decodedPayload).1.length (confidenceNum g.decodedBits)
        deviceId := (parseIdentifiers g.decodedPayload).1
        sessionId := (parseIdentifiers g.decodedPayload).2
        confNum := confidenceNum g.decodedBits
        payload := hex g.decodedPayload } := rfl

theorem payloadToBits_decodedPayload (g : Grid) : payloadToBits g.decodedPayload = g.decodedBits := by
  rw [Grid.decodedPayload, payloadToBits_bitsToPayload, g.decodedBits_length, Nat.sub_self, List.replicate_zero,
    List.append_nil]

theorem decodedPayload_of_bits {g : Grid} {p : Vector Byte 32} (h : g.decodedBits = payloadToBits p) :
    g.decodedPayload = p := by
  simp only [Grid.decodedPayload, h, bitsToPayload_payloadToBits]

/-! ### The registers after `DETECT` -/

/-- A sum register of a scanned block holds the whole sum (42_detector.md R152). -/
theorem grid_sumRegs_below (g : Grid) {k : Nat} (hk : k < g.scanned) :
    (g.sumRegs[k]'(hk.trans_le (grid_scanned_le g))).toNat = g.blockSum k := by
  have hle : g.blockSum k < 2 ^ 14 := Nat.lt_of_le_of_lt (grid_blockSum_le g k) (by decide)
  unfold Grid.sumRegs
  rw [Vector.getElem_ofFn, if_pos hk, BitVec.toNat_ofNat, Nat.mod_eq_of_lt hle]

theorem lumaEffect_sums (m : Space) (s : State) : (lumaEffect m s).regs.sums = (s.grid m).scanSums := by
  have hn : (lumaEffect m s).regs.nblk.toNat = (s.grid m).scanned := nblk_ofNat_scanned _
  have hle := grid_scanned_le (s.grid m)
  rw [Regs.sums_eq _ (hn.trans_le hle), hn, Grid.scanSums]
  refine List.map_congr_left fun k hk => ?_
  have hk := List.mem_range.1 hk
  rw [Vector.getElem?_eq_getElem (by omega), Option.getD_some]
  exact grid_sumRegs_below _ hk

theorem detectEffect_thr2 (m : Space) (s : State) :
    (detectEffect m s).regs.thr2.toNat = median2 (s.grid m).scanSums := by
  rw [← lumaEffect_sums]
  exact threshEffect_thr2 (lumaEffect m s)

theorem detectEffect_rpayload (m : Space) (s : State) :
    (detectEffect m s).regs.rpayload = (s.grid m).decodedPayload := by
  have hbits : classifyBits (lumaEffect m s).regs.sums (threshEffect (lumaEffect m s)).regs.thr2.toNat =
      (s.grid m).decodedBits := by
    rw [threshEffect_thr2, lumaEffect_sums, Grid.decodedBits]
  simp only [Grid.decodedPayload, ← hbits]
  rfl

theorem detectEffect_conf (m : Space) (s : State) :
    (detectEffect m s).regs.conf.toNat = confidenceNum (s.grid m).decodedBits := by
  rw [← payloadToBits_decodedPayload, ← detectEffect_rpayload]
  exact scoreEffect_conf _

theorem detectEffect_rdevLen (m : Space) (s : State) :
    (detectEffect m s).regs.rdevLen.toNat = (parseIdentifiers (s.grid m).decodedPayload).1.length := by
  rw [← detectEffect_rpayload]
  exact parseEffect_rdevLen _

theorem detectEffect_rsesLen (m : Space) (s : State) :
    (detectEffect m s).regs.rsesLen.toNat = (parseIdentifiers (s.grid m).decodedPayload).2.length := by
  rw [← detectEffect_rpayload]
  exact parseEffect_rsesLen _

theorem detectEffect_found (m : Space) (s : State) :
    (detectEffect m s).regs.found =
      foundFlag (parseIdentifiers (s.grid m).decodedPayload).1.length (confidenceNum (s.grid m).decodedBits) := by
  rw [← detectEffect_rdevLen, ← detectEffect_conf, foundFlag, ← Bool.decide_and]
  exact scoreEffect_found _

/-- The result registers of `DETECT` hold `detect` of the grid scanned. -/
theorem detectEffect_result (m : Space) (s : State) : (detectEffect m s).regs.result = detect (s.grid m) := by
  have hids := detectEffect_rpayload m s
  simp only [Regs.result, detect_eq, detectEffect_found, detectEffect_conf, detectEffect_rpayload, DetectResult.mk.injEq,
    true_and, and_true]
  rw [← hids]
  exact ⟨idBytes_take _ (parseIdentifiers_first_length_le _), idBytes_take _ (parseIdentifiers_second_length_le _)⟩

theorem State_withRegs_withRegs (s : State) (r r' : Regs) : (s.withRegs r).withRegs r' = s.withRegs r' := rfl

/-- The five stages write the result registers alone (10_state.md R48). -/
theorem detectEffect_writes (m : Space) (s : State) : ∃ n x t2 p d dn e en c f, detectEffect m s =
    s.withRegs (((((s.regs.withSums n x).withThr2 t2).withRpayload p).withParsed d dn e en).withScore c f) := by
  have luma (s : State) : ∃ n x, lumaEffect m s = s.withRegs (s.regs.withSums n x) := ⟨_, _, rfl⟩
  have thresh (s : State) : ∃ t2, threshEffect s = s.withRegs (s.regs.withThr2 t2) := ⟨_, rfl⟩
  have classify (s : State) : ∃ p, classifyEffect s = s.withRegs (s.regs.withRpayload p) := ⟨_, rfl⟩
  have parse (s : State) : ∃ d dn e en, parseEffect s = s.withRegs (s.regs.withParsed d dn e en) := ⟨_, _, _, _, rfl⟩
  have score (s : State) : ∃ c f, scoreEffect s = s.withRegs (s.regs.withScore c f) := ⟨_, _, rfl⟩
  obtain ⟨n, x, hluma⟩ := luma s
  obtain ⟨t2, hthresh⟩ := thresh (lumaEffect m s)
  obtain ⟨p, hclassify⟩ := classify (threshEffect (lumaEffect m s))
  obtain ⟨d, dn, e, en, hparse⟩ := parse (classifyEffect (threshEffect (lumaEffect m s)))
  obtain ⟨c, f, hscore⟩ := score (parseEffect (classifyEffect (threshEffect (lumaEffect m s))))
  refine ⟨n, x, t2, p, d, dn, e, en, c, f, ?_⟩
  rw [detectEffect, hscore, hparse, hclassify, hthresh, hluma]
  simp only [State_withRegs_regs, State_withRegs_withRegs]

/-- The grid scanned, its samples written from the rules. -/
theorem grid_eq_samples {m : Space} {s : State} (hc : ChannelsLegal s m) :
    s.grid m = { h := s.regs.imgH.toNat, w := s.regs.imgW.toNat, px := fun r c => BitVec.ofNat 8 (sampleOf s m r c) } := by
  have hpx : (s.grid m).px = fun r c => BitVec.ofNat 8 (sampleOf s m r c) := by
    funext r c
    rw [← grid_px_toNat s m hc, BitVec.ofNat_toNat, BitVec.setWidth_eq]
  rw [← hpx, ← grid_h s m, ← grid_w s m]

/-- Settles O17: the registers hold `detect` of the grid, and the five stages write result registers alone. -/
theorem detectLeavesThePureResult : Obligations.DetectLeavesThePureResult := by
  intro m s he hc hf
  refine ⟨_, execDetect_done he hc hf, ?_, ?_⟩
  · rw [← grid_eq_samples hc]
    exact detectEffect_result m s
  · obtain ⟨n, x, t2, p, d, dn, e, en, c, f, h⟩ := detectEffect_writes m s
    simp only [h, State.finish, State.withRegs, Regs.complete, Regs.withSums, Regs.withThr2, Regs.withRpayload,
      Regs.withParsed, Regs.withScore]

/-! ### An image with no complete block (42_detector.md R163) -/

theorem payloadToBits_zeros : payloadToBits (Vector.replicate 32 0#8) = List.replicate 256 false := by
  rw [List.eq_replicate_iff]
  refine ⟨payloadToBits_length _, fun b hb => ?_⟩
  obtain ⟨k, hk, rfl⟩ := List.mem_map.1 hb
  have hk := List.mem_range.1 hk
  simp [payloadBit, show k / 8 < 32 by omega]

theorem parseIdentifiers_zeros : parseIdentifiers (Vector.replicate 32 0#8) = ([], []) := by
  rw [parseIdentifiers, Vector.toList_replicate, List.take_replicate, List.drop_replicate, stripZeros_replicate_zero,
    stripZeros_replicate_zero]
  rfl

/-- Settles O45: no block is scanned, so that every bit is decoded as 0 and no identifier is parsed. -/
theorem degenerateImageIsNotFound : Obligations.DegenerateImageIsNotFound := by
  intro m s he hc hf hsmall
  have hscan : (s.grid m).scanned = 0 := by
    obtain h | h := hsmall <;> simp [Grid.scanned_eq, blockCount, Nat.div_eq_of_lt h]
  have hsums : (s.grid m).scanSums = [] := by simp [Grid.scanSums, hscan]
  have hbits : (s.grid m).decodedBits = List.replicate 256 false := by
    rw [Grid.decodedBits, hsums]
    exact classifyBits_eq_zeros fun k => classifyBit_of_ge (Nat.zero_le k) _
  have hpay : (s.grid m).decodedPayload = Vector.replicate 32 0#8 :=
    decodedPayload_of_bits (hbits.trans payloadToBits_zeros.symm)
  have hids : parseIdentifiers (s.grid m).decodedPayload = ([], []) := by rw [hpay, parseIdentifiers_zeros]
  have hconf : confidenceNum (s.grid m).decodedBits = 256 := by
    rw [hbits, confidenceNum, List.count_replicate]
    rfl
  refine ⟨_, execDetect_done he hc hf, ?_, ?_, ?_, ?_, ?_, ?_, ?_⟩
  · exact congrArg (BitVec.ofNat 9) hscan
  · exact BitVec.eq_of_toNat_eq ((detectEffect_thr2 m s).trans (by rw [hsums]; rfl))
  · exact (detectEffect_rpayload m s).trans hpay
  · exact BitVec.eq_of_toNat_eq ((detectEffect_rdevLen m s).trans (by rw [hids]; rfl))
  · exact BitVec.eq_of_toNat_eq ((detectEffect_rsesLen m s).trans (by rw [hids]; rfl))
  · exact BitVec.eq_of_toNat_eq ((detectEffect_conf m s).trans hconf)
  · exact (detectEffect_found m s).trans (by rw [hids]; rfl)

/-! ### What `LUMA` reads (42_detector.md R150, R152) -/

theorem blockSumOf_congr {s s' : State} {m : Space} {k : Nat} (hW : s'.regs.imgW = s.regs.imgW)
    (h : ∀ i j : Nat, i < 8 → j < 8 →
      sampleOf s' m (8 * (k / (s.regs.imgW.toNat / 8)) + i) (8 * (k % (s.regs.imgW.toNat / 8)) + j) =
        sampleOf s m (8 * (k / (s.regs.imgW.toNat / 8)) + i) (8 * (k % (s.regs.imgW.toNat / 8)) + j)) :
    blockSumOf s' m k = blockSumOf s m k := by
  rw [blockSumOf, blockSumOf, hW]
  exact Finset.sum_congr rfl fun i hi => Finset.sum_congr rfl fun j hj =>
    h i j (Finset.mem_range.1 hi) (Finset.mem_range.1 hj)

/-- The registers that `LUMA` writes depend on the count and the sums of the scanned blocks alone. -/
theorem lumaEffect_regs_congr {m : Space} {s s' : State} (hregs : s'.regs = s.regs)
    (hcount : (s'.grid m).scanned = (s.grid m).scanned) (hsum : (s'.grid m).sumRegs = (s.grid m).sumRegs) :
    (lumaEffect m s').finish.regs = (lumaEffect m s).finish.regs := by
  simp [lumaEffect, hregs, hcount, hsum]

/-- Settles O48: a block's sum reads the 64 pixels of that block, and the sums kept are those of the scanned blocks. -/
theorem lumaReadsOnlyScannedBlocks : Obligations.LumaReadsOnlyScannedBlocks := by
  intro m s s' hregs he hc hf hf' hpx
  have he' : NoError s' := by rwa [NoError, hregs]
  have hc' : ChannelsLegal s' m := by rwa [ChannelsLegal, hregs]
  have hcount : blockCount s' = blockCount s := by rw [blockCount, hregs, ← blockCount]
  have hblock : ∀ k < min (blockCount s) 256, blockSumOf s' m k = blockSumOf s m k := fun k hk => by
    obtain ⟨hrow, hcol⟩ := block_position_lt (hk.trans_le (min_le_left _ _))
    refine blockSumOf_congr (by rw [hregs]) fun i j hi hj => hpx _ _ (by omega) (by omega) ?_
    rw [Nat.mul_add_div (by omega), Nat.mul_add_div (by omega), Nat.div_eq_of_lt hi, Nat.div_eq_of_lt hj, Nat.add_zero,
      Nat.add_zero, Nat.div_add_mod']
    exact hk.trans_le (min_le_right _ _)
  refine ⟨_, _, execLuma_done he hc hf, execLuma_done he' hc' hf', lumaEffect_regs_congr hregs ?_ ?_⟩
  · rw [Grid.scanned_eq, Grid.scanned_eq, hcount]
  · refine Vector.ext fun k hk => BitVec.eq_of_toNat_eq ?_
    rw [Grid.sumRegs_get s' m hc', Grid.sumRegs_get s m hc, hcount]
    exact if_ctx_congr Iff.rfl (hblock k) fun _ => rfl

end Sys2Proof.Machine
end

section
/-! SUPPORT AND PROOFS. The round trip on a uniform grid (42_detector.md R166, R167): `EMBED` leaves block sums of two values,
and the detector's median falls on the lower, between them or on the upper, by which payload bit is the more frequent. -/

namespace Sys2Proof.Machine

/-! ### The median of two values -/

/-- The list that has `hi` for each 1 and `lo` for each 0. -/
def levels (lo hi : Nat) (b : List Bool) : List Nat := b.map fun v => if v then hi else lo

@[simp] theorem levels_length (lo hi : Nat) (b : List Bool) : (levels lo hi b).length = b.length := List.length_map _

theorem levels_get (lo hi : Nat) {b : List Bool} {k : Nat} (hk : k < (levels lo hi b).length) :
    (levels lo hi b)[k] = if b[k]'(by simpa using hk) then hi else lo := List.getElem_map _

/-- `lo` and `hi` in non-decreasing order. -/
def sortedLevels (lo hi zeros ones : Nat) : List Nat := List.replicate zeros lo ++ List.replicate ones hi

@[simp] theorem sortedLevels_length (lo hi zeros ones : Nat) : (sortedLevels lo hi zeros ones).length = zeros + ones := by
  simp [sortedLevels]

theorem sortedLevels_low {zeros i : Nat} (h : i < zeros) (lo hi ones : Nat) :
    (sortedLevels lo hi zeros ones)[i]?.getD 0 = lo := by
  simp [sortedLevels, List.getElem?_append, h]

theorem sortedLevels_high {zeros ones i : Nat} (h : zeros ≤ i) (h' : i < zeros + ones) (lo hi : Nat) :
    (sortedLevels lo hi zeros ones)[i]?.getD 0 = hi := by
  simp [sortedLevels, List.getElem?_append, Nat.not_lt.2 h, show i - zeros < ones by omega]

theorem sortedLevels_pairwise {lo hi : Nat} (h : lo ≤ hi) (zeros ones : Nat) :
    (sortedLevels lo hi zeros ones).Pairwise (· ≤ ·) := by
  simp [sortedLevels, List.pairwise_append, List.pairwise_replicate, h]

theorem sortedLevels_perm (lo hi : Nat) (b : List Bool) :
    (sortedLevels lo hi (b.count false) (b.count true)).Perm (levels lo hi b) := by
  have hb : b.Perm (List.replicate (b.count false) false ++ List.replicate (b.count true) true) :=
    (List.perm_replicate_append_replicate (by decide)).2 ⟨rfl, rfl, fun v _ => by cases v <;> simp⟩
  have hmap := hb.symm.map fun v => if v then hi else lo
  simpa [sortedLevels, levels] using hmap

/-- The median of a sorted list of two values: the more frequent one, or half way between the two. -/
theorem median2Sorted_levels (lo hi zeros ones : Nat) :
    (ones < zeros → median2Sorted (sortedLevels lo hi zeros ones) = 2 * lo) ∧
      (ones = zeros → 0 < ones → median2Sorted (sortedLevels lo hi zeros ones) = lo + hi) ∧
        (zeros < ones → median2Sorted (sortedLevels lo hi zeros ones) = 2 * hi) := by
  obtain hpar | hpar := Nat.mod_two_eq_zero_or_one (zeros + ones)
  · refine ⟨fun h => ?_, fun h hpos => ?_, fun h => ?_⟩ <;>
      rw [median2Sorted_of_even (by simpa) (by simp; omega), sortedLevels_length]
    · rw [sortedLevels_low (by omega), sortedLevels_low (by omega), Nat.two_mul]
    · rw [sortedLevels_low (by omega), sortedLevels_high (by omega) (by omega)]
    · rw [sortedLevels_high (by omega) (by omega), sortedLevels_high (by omega) (by omega), Nat.two_mul]
  · refine ⟨fun h => ?_, fun h => by omega, fun h => ?_⟩ <;>
      rw [median2Sorted_of_odd (by simpa), sortedLevels_length]
    · rw [sortedLevels_low (by omega)]
    · rw [sortedLevels_high (by omega) (by omega)]

/-- The median of a list of two values, by the number of ones. -/
theorem median2_levels {lo hi : Nat} (h : lo ≤ hi) (b : List Bool) :
    (2 * b.count true < b.length → median2 (levels lo hi b) = 2 * lo) ∧
      (2 * b.count true = b.length → 0 < b.length → median2 (levels lo hi b) = lo + hi) ∧
        (b.length < 2 * b.count true → median2 (levels lo hi b) = 2 * hi) := by
  have hlen := List.count_true_add_count_false b
  rw [median2_of_sorted (sortedLevels_perm lo hi b) (sortedLevels_pairwise h _ _)]
  obtain ⟨few, half, many⟩ := median2Sorted_levels lo hi (b.count false) (b.count true)
  exact ⟨fun h => few (by omega), fun h hpos => half (by omega) (by omega), fun h => many (by omega)⟩

/-! ### Decoding two levels -/

/-- With at most half ones the median lies below the upper level and not below the lower, so each block decodes to its bit. -/
theorem decodedBits_of_few {g : Grid} {lo hi : Nat} {b : List Bool} (h : g.scanSums = levels lo hi b) (hlt : lo < hi)
    (hfew : 2 * b.count true ≤ b.length) {k : Nat} (hk : k < b.length) (hk' : k < 256) :
    g.decodedBits[k]? = b[k]? := by
  obtain ⟨few, half, -⟩ := median2_levels hlt.le b
  have hlow : 2 * lo ≤ median2 (levels lo hi b) := by omega
  have hhigh : median2 (levels lo hi b) < 2 * hi := by omega
  rw [Grid.decodedBits, h, classifyBits_get _ _ hk', classifyBit_of_lt (by simpa using hk), levels_get,
    List.getElem?_eq_getElem hk]
  cases b[k]
  · simpa using hlow
  · simpa using hhigh

/-- With more than half ones the median is the upper level, which no sum exceeds. -/
theorem decodedBits_of_many {g : Grid} {lo hi : Nat} {b : List Bool} (h : g.scanSums = levels lo hi b) (hlt : lo < hi)
    (hmany : b.length < 2 * b.count true) : g.decodedBits = List.replicate 256 false := by
  obtain ⟨-, -, many⟩ := median2_levels hlt.le b
  rw [Grid.decodedBits, h, many hmany]
  refine classifyBits_eq_zeros fun k => ?_
  by_cases hk : k < (levels lo hi b).length
  · rw [classifyBit_of_lt hk, levels_get]
    split
    · simp
    · simpa using hlt.le
  · exact classifyBit_of_ge (by omega) _

theorem decodedBits_above {g : Grid} {k : Nat} (h : g.scanned ≤ k) (hk : k < 256) : g.decodedBits[k]? = some false := by
  rw [Grid.decodedBits, classifyBits_get _ _ hk, classifyBit_of_ge (by simpa [Grid.scanSums] using h)]

/-! ### The ones of a payload -/

theorem onesBelow_all (p : Vector Byte 32) : onesBelow p 256 = (payloadToBits p).count true := by
  rw [onesBelow, List.take_of_length_le (payloadToBits_length p).le]

theorem exists_one_of_onesBelow_pos {p : Vector Byte 32} {n : Nat} (h : 0 < onesBelow p n) :
    ∃ k < n, (payloadToBits p)[k]? = some true := by
  obtain ⟨k, hk⟩ := List.mem_iff_getElem?.1 (List.count_pos_iff.1 h)
  rw [List.getElem?_take] at hk
  split_ifs at hk with hlt
  exact ⟨k, hlt, hk⟩

/-! ### A uniform image, marked -/

/-- The setting of R166 and R167: an image of samples `x` that `EMBED` marks with the whole strength `n` without clipping. -/
structure UniformEmbed (s : State) (x n : Nat) : Prop where
  noError : NoError s
  channels : ChannelsLegal s .src
  fitsSrc : ImageFits s .src
  fitsDst : ImageFits s .dst
  sample : ∀ r c : Nat, r < s.regs.imgH.toNat → c < s.regs.imgW.toNat → sampleOf s .src r c = x
  pos : 1 ≤ n
  strength : s.regs.strength.toNat = 256 * n
  low : n ≤ x
  high : x + n ≤ 255

/-- The state that `EMBED` leaves. -/
def markedState (s : State) : State := (embedEffect s).finish

theorem markedState_blockCount (s : State) : blockCount (markedState s) = blockCount s := rfl

/-- The state that `DETECT` on DST leaves after it. -/
def detectedState (s : State) : State := (detectEffect .dst (markedState s)).finish

theorem blockSumOf_const {t : State} {m : Space} {k v : Nat} (h : ∀ i j : Nat, i < 8 → j < 8 →
    sampleOf t m (8 * (k / (t.regs.imgW.toNat / 8)) + i) (8 * (k % (t.regs.imgW.toNat / 8)) + j) = v) :
    blockSumOf t m k = 64 * v := by
  rw [blockSumOf, Finset.sum_congr rfl fun i hi => Finset.sum_congr rfl fun j hj =>
    h i j (Finset.mem_range.1 hi) (Finset.mem_range.1 hj)]
  simp only [Finset.sum_const, Finset.card_range, smul_eq_mul]
  omega

section
variable {s : State} {x n : Nat}

theorem UniformEmbed.execEmbed (U : UniformEmbed s x n) : exec .embed s = .next (markedState s) := by
  refine execEmbed_done U.noError U.channels U.fitsSrc U.fitsDst fun hz => ?_
  have hpos := U.pos
  have hS := U.strength
  rw [hz, BitVec.toNat_zero] at hS
  omega

theorem UniformEmbed.execDetect (U : UniformEmbed s x n) :
    exec (.detect .dst) (markedState s) = .next (detectedState s) :=
  execDetect_done U.noError (channelsLegal_dst _) U.fitsDst

/-- A marked block's sum shows its payload bit. -/
theorem UniformEmbed.blockSum (U : UniformEmbed s x n) {k : Nat} (hk : k < blockCount s) :
    blockSumOf (markedState s) .dst k =
      if (payloadToBits s.regs.payload)[k % 256]? = some true then 64 * (x + n) else 64 * (x - n) := by
  obtain ⟨hrow, hcol⟩ := block_position_lt hk
  have hsample : ∀ i j : Nat, i < 8 → j < 8 →
      sampleOf (markedState s) .dst (8 * (k / (s.regs.imgW.toNat / 8)) + i) (8 * (k % (s.regs.imgW.toNat / 8)) + j) =
        if (payloadToBits s.regs.payload)[k % 256]? = some true then x + n else x - n := fun i j hi hj => by
    have hx := U.sample (8 * (k / (s.regs.imgW.toNat / 8)) + i) (8 * (k % (s.regs.imgW.toNat / 8)) + j)
      (by omega) (by omega)
    have hbyte := toNat_ofNat_sampleOf U.channels (8 * (k / (s.regs.imgW.toNat / 8)) + i)
      (8 * (k % (s.regs.imgW.toNat / 8)) + j)
    rw [markedState, sampleOf_embedEffect_block U.channels hi hj hk, payloadToBits_get _ _ (Nat.mod_lt _ (by decide))]
    cases s.regs.payload[k % 256 / 8].getLsbD (k % 256 % 8) with
    | true =>
      rw [embedSample_up U.strength, hbyte, hx]
      exact Nat.min_eq_left U.high
    | false =>
      rw [embedSample_down U.strength, hbyte, hx]
      rfl
  rw [blockSumOf_const hsample, mul_ite]

theorem UniformEmbed.scanSums (U : UniformEmbed s x n) :
    ((markedState s).grid .dst).scanSums =
      levels (64 * (x - n)) (64 * (x + n)) ((payloadToBits s.regs.payload).take (blockCount s)) := by
  have hscan : ((markedState s).grid .dst).scanned = min (blockCount s) 256 := Grid.scanned_eq _ _
  apply List.ext_getElem
  · simp [Grid.scanSums, hscan]
  · intro k hk hk'
    have hk : k < min (blockCount s) 256 := by simpa [Grid.scanSums, hscan] using hk
    have hbit : (payloadToBits s.regs.payload)[k % 256]? = some ((payloadToBits s.regs.payload)[k]'(by simp; omega)) := by
      rw [Nat.mod_eq_of_lt (by omega), List.getElem?_eq_getElem]
    simp only [Grid.scanSums, List.getElem_map, List.getElem_range]
    rw [Grid.blockSum_eq _ _ (channelsLegal_dst _), U.blockSum (by omega), levels_get, List.getElem_take, hbit]
    simp

/-- With at least 256 blocks every payload bit is scanned. -/
theorem UniformEmbed.scanSums_full (U : UniformEmbed s x n) (hN : 256 ≤ blockCount s) :
    ((markedState s).grid .dst).scanSums = levels (64 * (x - n)) (64 * (x + n)) (payloadToBits s.regs.payload) := by
  rw [U.scanSums, List.take_of_length_le (by simpa)]

theorem UniformEmbed.levels_lt (U : UniformEmbed s x n) : 64 * (x - n) < 64 * (x + n) := by
  have hpos := U.pos
  omega

theorem UniformEmbed.decodedBits_full (U : UniformEmbed s x n) (hN : 256 ≤ blockCount s)
    (hfew : onesBelow s.regs.payload 256 ≤ 128) :
    ((markedState s).grid .dst).decodedBits = payloadToBits s.regs.payload := by
  rw [onesBelow_all] at hfew
  have hlen := payloadToBits_length s.regs.payload
  refine List.ext_getElem? fun k => ?_
  by_cases hk : k < 256
  · exact decodedBits_of_few (U.scanSums_full hN) U.levels_lt (by omega) (by omega) hk
  · rw [List.getElem?_eq_none (by rw [Grid.decodedBits_length]; omega), List.getElem?_eq_none (by omega)]

/-- With at most 128 ones the payload comes back, and the confidence counts its zeros. -/
theorem UniformEmbed.recovered (U : UniformEmbed s x n) (hN : 256 ≤ blockCount s)
    (hfew : onesBelow s.regs.payload 256 ≤ 128) :
    (detectedState s).regs.rpayload = s.regs.payload ∧
      (detectedState s).regs.conf.toNat = 256 - onesBelow s.regs.payload 256 ∧
        (detectedState s).regs.found =
          decide ((parseIdentifiers s.regs.payload).1 ≠ [] ∧ onesBelow s.regs.payload 256 < 128) := by
  have hbits := U.decodedBits_full hN hfew
  have hpayload := decodedPayload_of_bits hbits
  have hnum : confidenceNum ((markedState s).grid .dst).decodedBits = 256 - onesBelow s.regs.payload 256 := by
    rw [hbits, confidenceNum, ← onesBelow_all]
    omega
  have hrpayload := detectEffect_rpayload .dst (markedState s)
  have hconf := detectEffect_conf .dst (markedState s)
  have hfound := detectEffect_found .dst (markedState s)
  refine ⟨hrpayload.trans hpayload, hconf.trans hnum, hfound.trans ?_⟩
  rw [hpayload, hnum, foundFlag, ← Bool.decide_and, decide_eq_decide, List.length_pos_iff]
  exact and_congr_right' (by omega)

/-- With more than 128 ones every bit is decoded as 0. -/
theorem UniformEmbed.lost (U : UniformEmbed s x n) (hN : 256 ≤ blockCount s)
    (hmany : 128 < onesBelow s.regs.payload 256) : (detectedState s).regs.rpayload = Vector.replicate 32 0#8 := by
  have hlen := payloadToBits_length s.regs.payload
  rw [onesBelow_all] at hmany
  have hbits := decodedBits_of_many (U.scanSums_full hN) U.levels_lt (by omega)
  have hrpayload := detectEffect_rpayload .dst (markedState s)
  exact hrpayload.trans (decodedPayload_of_bits (hbits.trans payloadToBits_zeros.symm))

theorem UniformEmbed.sum (U : UniformEmbed s x n) (hN : 256 ≤ blockCount s) (k : Nat) (hk : k < 256) :
    (detectedState s).regs.sum[k].toNat =
      if (payloadToBits s.regs.payload)[k]? = some true then 64 * (x + n) else 64 * (x - n) := by
  have hblock := U.blockSum (hk.trans_le hN)
  rw [Nat.mod_eq_of_lt hk] at hblock
  have hsum := Grid.sumRegs_get (markedState s) .dst (channelsLegal_dst _) k hk
  rw [markedState_blockCount, if_pos (Nat.lt_min.2 ⟨hk.trans_le hN, hk⟩), hblock] at hsum
  exact hsum

end

/-- Settles O46: the median of the marked sums is known from the number of ones, and with it every decoded bit. -/
theorem uniformRoundTrip : Obligations.UniformRoundTrip := by
  intro s x n he hc hs hd hN hx hn hS hlow hhigh
  have U : UniformEmbed s x n := ⟨he, hc, hs, hd, hx, hn, hS, hlow, hhigh⟩
  have hthr2 := (detectEffect_thr2 .dst (markedState s)).trans (congrArg median2 (U.scanSums_full hN))
  obtain ⟨few, half, many⟩ := median2_levels U.levels_lt.le (payloadToBits s.regs.payload)
  rw [← onesBelow_all, payloadToBits_length] at few half many
  refine ⟨_, _, U.execEmbed, U.execDetect, U.sum hN, fun h => ?_, fun h => ?_, fun h => ?_⟩
  · obtain ⟨hpayload, hconf, hfound⟩ := U.recovered hN (by omega)
    refine ⟨(hthr2.trans (few (by omega))).trans (by omega), hpayload, hconf, ?_⟩
    rw [hfound, decide_eq_true_eq]
    exact and_iff_left (by omega)
  · obtain ⟨hpayload, hconf, hfound⟩ := U.recovered hN h.le
    refine ⟨(hthr2.trans (half (by omega) (by omega))).trans (by omega), hpayload, BitVec.eq_of_toNat_eq ?_, ?_⟩
    · rw [hconf, h]
      rfl
    · rw [hfound, h]
      simp
  · exact ⟨(hthr2.trans (many (by omega))).trans (by omega), U.lost hN (by omega)⟩

/-- Settles O47: with at most half ones each scanned bit comes back; with more every bit is decoded as 0, also those that
are 1; and a bit beyond the blocks is always decoded as 0. -/
theorem smallUniformRoundTrip : Obligations.SmallUniformRoundTrip := by
  intro s x n he hc hs hd hN hx hn hS hlow hhigh
  have U : UniformEmbed s x n := ⟨he, hc, hs, hd, hx, hn, hS, hlow, hhigh⟩
  have hscan : ((markedState s).grid .dst).scanned = blockCount s :=
    (Grid.scanned_eq _ _).trans (min_eq_left hN.le)
  have hlen : ((payloadToBits s.regs.payload).take (blockCount s)).length = blockCount s := by simp; omega
  have hdecoded : payloadToBits (detectedState s).regs.rpayload = ((markedState s).grid .dst).decodedBits :=
    (congrArg payloadToBits (detectEffect_rpayload .dst (markedState s))).trans (payloadToBits_decodedPayload _)
  refine ⟨_, _, U.execEmbed, U.execDetect, ?_, fun k hk hk' => ?_⟩
  · rw [hdecoded]
    constructor
    · intro hback
      by_contra hmany
      obtain ⟨k, hk, hone⟩ := exists_one_of_onesBelow_pos (p := s.regs.payload) (n := blockCount s) (by omega)
      have hzeros := decodedBits_of_many U.scanSums U.levels_lt (hlen.trans_lt (Nat.not_le.1 hmany))
      have hbit := hback k hk
      rw [hzeros, hone, List.getElem?_replicate_of_lt (hk.trans hN)] at hbit
      cases hbit
    · intro hfew k hk
      rw [decodedBits_of_few U.scanSums U.levels_lt (hfew.trans_eq hlen.symm) (hk.trans_eq hlen.symm) (hk.trans hN)]
      exact List.getElem?_take_of_lt hk
  · rw [hdecoded]
    exact decodedBits_above (hscan.trans_le hk) hk'

end Sys2Proof.Machine
end

section
/-! SUPPORT AND PROOFS. The control commands `NOP` and `SRST` (43_control.md R190, R191). -/

namespace Sys2Proof.Machine

/-! ### Illegal words while an error is pending -/

/-- A word that is no legal command is dropped while `ERR` is 1 (60_exceptions.md R206). -/
theorem rejectWord_dropped {s : State} (h : s.regs.err = true) (w : Word) (e : Illegal) : rejectWord s w e = .next s := by
  simp [rejectWord, h]

/-- A step that issues a word that is no legal command while `ERR` is 1. -/
theorem step_illegal_dropped {s : State} {w : Word} {rest : List HostOp} {e : Illegal}
    (hp : s.pending = .regWrite 0x000 w :: rest) (he : s.regs.err = true) (hd : decode w = .error e) :
    step s = .next (s.withPending rest) := by
  rw [step_command hp, issue_error hd, rejectWord_dropped (s := s.withPending rest) he]

/-! ### The two commands -/

theorem execNop_done {s : State} (he : NoError s) : exec .nop s = .next s.finish :=
  exec_done (by nofun) he rfl

/-- Settles O8: `NOP` makes no check and has no effect of its own, so that only `DONE` is left of the common shape. -/
theorem nopOnlySetsDone : Obligations.NopOnlySetsDone := by
  refine ⟨by decide, reservedWordRaises_leastReserved (op := 0x00) (by simp [OpUnassigned]), fun s he => ?_, fun s he => ?_⟩
  · exact execNop_done he
  · exact exec_dropped (by nofun) he

/-- Settles O18: `SRST` answers the reset register file in every state, and another word of its opcode is rejected with a
reserved field that is not zero. -/
theorem srstResetsTheRegisters : Obligations.SrstResetsTheRegisters := by
  have hop : ¬OpUnassigned 0xFF := by simp [OpUnassigned]
  refine ⟨by decide, reservedWordRaises_leastReserved hop, fun s => ?_, fun s w rest hp he hw hlow => ?_⟩
  · exact ⟨Regs.reset, exec_srst s, Regs.read_reset, rfl, rfl, rfl⟩
  · have hreserved : decode w = .error .reserved := (decode_class w).eq_reserved_iff.2 ⟨by rwa [hw], by rwa [hw]⟩
    exact step_illegal_dropped hp he hreserved

end Sys2Proof.Machine
end

section
/-! SUPPORT AND PROOFS. Errors and the interrupt output (60_exceptions.md R206 to R209, R212): what a recorded error drops,
what ends it, and the level that the host samples. -/

namespace Sys2Proof.Machine

/-! ### The recorded error (R206 to R209) -/

/-- A register write keeps the code and the word of the recorded error. -/
theorem Regs.write_errorRecord (r : Regs) (v : Word) (q : Reg) :
    (r.write v q).errCode = r.errCode ∧ (r.write v q).errCmd = r.errCmd := by
  cases q <;> exact ⟨rfl, rfl⟩

/-- Of the registers only `STATUS` holds `ERR`. -/
theorem Regs.write_err {q : Reg} (h : q ≠ .status) (r : Regs) (v : Word) : (r.write v q).err = r.err := by
  cases q with
  | status => exact absurd rfl h
  | _ => rfl

/-- Settles O7, by the cases of one step: while `ERR` is 1 no command raises an error or has its effect, and a register
write reaches `ERR` only in `STATUS`, where bit 2 of the word written decides. -/
theorem errorRecordStaysUntilCleared : Obligations.ErrorRecordStaysUntilCleared := by
  intro s t herr hstep
  obtain rfl | ⟨op, rest, hp, he⟩ := step_effect hstep
  · exact .inl ⟨herr, rfl, rfl⟩
  cases he with
  | regRead | srcRead | dstRead | irqSample | srcWrite | dstWrite | dropped => exact .inl ⟨herr, rfl, rfl⟩
  | rejected _ _ _ hno | raised _ _ _ hno | done _ _ hno => exact absurd herr (Bool.eq_false_iff.1 hno)
  | reset => exact .inr (.inr ⟨rest, .inr hp, rfl⟩)
  | srst => exact .inr (.inr ⟨rest, .inl hp, rfl⟩)
  | regWrite q v =>
    have hrecord := s.regs.write_errorRecord v q
    by_cases hq : q = .status
    · subst hq
      have hack : (s.regs.write v .status).err = !v.getLsbD 2 := by simp [Regs.write, herr]
      cases hv : v.getLsbD 2 with
      | false => exact .inl ⟨hack.trans (by rw [hv, Bool.not_false]), hrecord⟩
      | true => exact .inr (.inl ⟨v, rest, hp, hv, hack.trans (by rw [hv, Bool.not_true]), hrecord⟩)
    · exact .inl ⟨(Regs.write_err hq _ v).trans herr, hrecord⟩

/-- While `ERR` is 1 every word but that of `SRST`, legal or not, is dropped (R206, 30_encoding.md R85 step 1). -/
theorem issue_dropped {s : State} (h : s.regs.err = true) {w : Word} (hw : w ≠ encode .srst) : issue w s = .next s := by
  cases hd : decode w with
  | error e => rw [issue_error hd, rejectWord_dropped h]
  | ok i =>
    have hi : i ≠ .srst := by
      rintro rfl
      exact hw (eq_encode_of_decode hd)
    rw [issue_ok hd, exec_dropped hi h]

/-- Settles O6: the step issues the word, and 0xFF000000 is the word of `SRST`. -/
theorem commandsDroppedWhileErr : Obligations.CommandsDroppedWhileErr := by
  intro s w rest hp herr hw
  rw [step_command hp]
  exact issue_dropped (s := s.withPending rest) herr hw

/-! ### The interrupt output (R212) -/

/-- A step that samples the interrupt output. -/
theorem step_irqSample {s : State} {rest : List HostOp} (h : s.pending = .irqSample :: rest) :
    step s = .next ((s.withPending rest).reply (.level s.regs.irq)) :=
  step_pending h

/-- The interrupt output is 0 while neither condition is enabled. -/
theorem Regs.irq_of_disabled {r : Regs} (hd : r.doneIE = false) (he : r.errIE = false) : r.irq = false := by
  simp [Regs.irq, hd, he]

/-- Settles O26: the sample replies the level of R212, and reset leaves both interrupts disabled. -/
theorem interruptLevel : Obligations.InterruptLevel :=
  ⟨fun _ _ => step_irqSample, Regs.read_reset .ie, Regs.irq_of_disabled rfl rfl⟩

end Sys2Proof.Machine
end

section
/-! SUPPORT AND PROOFS. Hardware reset (70_reset_and_hazards.md R230), and how a program of accesses with a meaning runs to
its end (R240). -/

namespace Sys2Proof.Machine

/-! ### Hardware reset (R230) -/

/-- A step that resets the instance. -/
theorem step_reset {s : State} {rest : List HostOp} (h : s.pending = .reset :: rest) :
    step s = .next (s.withPending rest).hardwareReset :=
  step_pending h

/-- Hardware reset leaves no byte of either memory listed. -/
theorem State.mem_hardwareReset (s : State) (m : Space) : s.hardwareReset.mem m = [] := by
  cases m with
  | src => exact State_hardwareReset_src s
  | dst => exact State_hardwareReset_dst s

/-- Settles O20: the step is `hardwareReset` of the state with the operation taken off. -/
theorem hardwareResetFromAnyState : Obligations.HardwareResetFromAnyState := by
  intro s rest hp
  exact ⟨_, step_reset hp, Regs.read_reset, Regs.irq_of_disabled rfl rfl,
    fun m a => congrArg (·.get? a) ((s.withPending rest).mem_hardwareReset m), rfl, rfl⟩

/-! ### Programs of accesses with a meaning (R240) -/

/-- No host operation changes the parameters, and none touches the operations still to be issued (log entries 3, 5, 13). -/
theorem HostEffect.keeps {s t : State} {op : HostOp} (h : HostEffect s op t) : t.cfg = s.cfg ∧ t.pending = s.pending := by
  cases h with
  | done i =>
    obtain ⟨-, hcfg, -, hpending, -⟩ := effectOf_keeps i s
    exact ⟨hcfg, hpending⟩
  | _ => exact ⟨rfl, rfl⟩

/-- A list of operations is well formed when its first operation and the rest of it are. -/
theorem programWf_cons {c : Config} {op : HostOp} {rest : List HostOp} :
    programWf c (op :: rest) = true ↔ op.wf c = true ∧ programWf c rest = true := by
  rw [programWf, List.all_cons, Bool.and_eq_true, programWf]

/-- The step of a well-formed first operation answers a next state that has the same parameters and one operation less. -/
theorem step_next_of_wf {s : State} {op : HostOp} {rest : List HostOp} (hp : s.pending = op :: rest)
    (hwf : op.wf s.cfg = true) : ∃ t, step s = .next t ∧ t.cfg = s.cfg ∧ t.pending = rest := by
  obtain ⟨t, ht⟩ := hostOp_next_of_wf (s := s.withPending rest) hwf
  exact ⟨t, (step_pending hp).trans ht, (hostOp_effect ht).keeps⟩

/-- A run whose first step answers a next state goes on from there. -/
theorem run_succ_of_next {M : Host.Core} {s t : M.State} (h : M.step s = .next t) (k : Nat) : M.run (k + 1) s = M.run k t := by
  simp only [Host.Core.run, h]

/-- R240 by induction on the program, for every state that has it pending: a step changes the state, so the state is
generalised. -/
theorem run_next_of_programWf (p : List HostOp) (s : State) (hp : s.pending = p) (hwf : programWf s.cfg p = true) :
    ∃ t : State, Host.Core.run Sys2Proof.core p.length s = .next t ∧ t.pending = [] := by
  induction p generalizing s with
  | nil => exact ⟨s, rfl, hp⟩
  | cons op rest ih =>
    obtain ⟨hop, hrest⟩ := programWf_cons.1 hwf
    obtain ⟨u, hu, hcfg, hpending⟩ := step_next_of_wf hp hop
    obtain ⟨t, ht, hdone⟩ := ih u hpending (by rwa [hcfg])
    exact ⟨t, (run_succ_of_next (M := Sys2Proof.core) hu rest.length).trans ht, hdone⟩

/-- Settles O30, by induction on the operations still to be issued: each step takes one off and keeps the parameters, so the
rest stay well formed. -/
theorem wellFormedProgramsRunToTheEnd : Obligations.WellFormedProgramsRunToTheEnd :=
  fun s hwf => run_next_of_programWf s.pending s rfl hwf

end Sys2Proof.Machine
end
